-- ==== Sys2Proof/Word.lean ====
section
/-! DEFINITION. The word types of the block: bytes, 32-bit registers, 24-bit pixels and 16-bit RGB565 values. -/

namespace Sys2Proof

/-- 8 bits: one byte of DST, one colour channel (00_scope.md R14, R16). -/
abbrev Byte := BitVec 8

/-- 32 bits: a register, a command word, a host access's value (00_scope.md R11). -/
abbrev Word := BitVec 32

/-- The 24 bits PIX_IN and each SRC word hold: R in 23:16, G in 15:8, B in 7:0 (30_encoding.md R76). -/
abbrev Pixel := BitVec 24

/-- A 16-bit RGB565 value (00_scope.md R16, 40_reducer.md R102). -/
abbrev P565 := BitVec 16

end Sys2Proof
end

