-- ==== Sys2Proof/Config.lean ====
section
/-! DEFINITION. What a platform fixes (00_scope.md R10), and the free values the spec leaves open (10_state.md R32, R34; 70_reset_and_hazards.md R240). -/

namespace Sys2Proof

/-- The parameters of 00_scope.md R10. The spec fixes none of them, so a machine state carries them and
every statement over states is a statement over all of them. Their constraints are `Platform.wf`.
Bus addresses are natural numbers: the spec gives the bus no width (DESIGN CHOICE, log entry 10). -/
structure Platform where
  /-- SRC_PIXELS: the number of 32-bit pixel words in SRC. -/
  srcPixels : Nat
  /-- DST_SIZE: the number of bytes in DST. -/
  dstSize : Nat
  /-- REG_BASE: the bus address of register offset 0x00. -/
  regBase : Nat
  /-- SRC_BASE: the bus address of SRC word 0. -/
  srcBase : Nat
  /-- DST_BASE: the bus address of DST byte 0. -/
  dstBase : Nat
  deriving DecidableEq, Repr

/-- The platform of `State.reset`: the sizes are 00_scope.md R10's sizing hint, the bases are ours
(DESIGN CHOICE, unsafe, log entry 1). No statement rests on these numbers. -/
def Platform.reference : Platform where
  srcPixels := 16384
  dstSize := 32838
  regBase := 0x0
  srcBase := 0x10000
  dstBase := 0x20000

/-- FREE VALUE: what read number `draw` of the never-written SRC word `i` returns (10_state.md R32; DESIGN CHOICE, log entries 4 and 5). -/
opaque Config.freePixel : (draw : Nat) → (i : Nat) → Pixel

/-- FREE VALUE: what read number `draw` of the never-written DST byte `a` returns (10_state.md R34; DESIGN CHOICE, log entries 4 and 5). -/
opaque Config.freeByte : (draw : Nat) → (a : Nat) → Byte

/-- What a command writes beside DST: the parts of its result that a protocol violation leaves open (70_reset_and_hazards.md R240). ERR has
two bits, the codes 0 to 3 that are ever written (60_exceptions.md R201; O8 of 93_implementation_defined.md). -/
structure CommandResults where
  /-- STATUS.ERR. -/
  err : BitVec 2
  /-- Whether STATUS.STICKY was set. -/
  sticky : Bool
  /-- PIX_OUT. -/
  pixOut : P565
  /-- OUT_LEN. -/
  outLen : Nat
  deriving DecidableEq, Repr, Inhabited

/-- FREE VALUE: the results that draw number `draw` leaves after a protocol violation (70_reset_and_hazards.md R240; log entry 8). -/
opaque Config.freeResults : (draw : Nat) → CommandResults

/-- FREE VALUE: whether a forbidden write takes effect (70_reset_and_hazards.md R240; log entry 8). -/
opaque Config.freeTaken : (draw : Nat) → Bool

end Sys2Proof
end

