-- ==== Sys2Proof/Syntax.lean ====
section
/-! DEFINITION. The command set: one constructor per row of spec/opcode_table.json (30_encoding.md R72). -/

namespace Sys2Proof

/-- The seven commands of 30_encoding.md R72. No command has an operand field or an immediate (R70, R75):
its operands are the registers and memories its rule names. -/
inductive Instr where
  /-- RED (0x01): reduce the pixel in PIX_IN, 40_reducer.md R106. -/
  | red
  /-- PAY_BMP (0x02): the bottom-up payload, 41_row_reorder.md R126. -/
  | payBmp
  /-- PAY_TGA (0x03): the top-down payload, 41_row_reorder.md R127. -/
  | payTga
  /-- HDR_BMP (0x04): the BMP header, 42_headers.md R155. -/
  | hdrBmp
  /-- HDR_TGA (0x05): the TGA header, 42_headers.md R156. -/
  | hdrTga
  /-- ENC_BMP (0x06): the whole BMP container, 43_encode.md R171. -/
  | encBmp
  /-- ENC_TGA (0x07): the whole TGA container, 43_encode.md R172. -/
  | encTga
  deriving DecidableEq, Repr

end Sys2Proof
end

