-- ==== Sys2Proof/Decode.lean ====
section
/-! DEFINITION. The command word: its fields, the decoder (total, rejecting by name) and the encoder (30_encoding.md R70 to R74). -/

namespace Sys2Proof

/-- Why a word is no command (30_encoding.md R71, R73). Both give ERR_OPCODE. -/
inductive DecodeReject where
  /-- RSV, bits 31:8, is not 0. -/
  | reservedBits
  /-- RSV is 0 and OPCODE is 0x00 or 0x08 to 0xFF. -/
  | opcode
  deriving DecidableEq, Repr

/-- RSV, bits 31:8 of a command word (30_encoding.md R70). -/
def rsvField (c : Word) : BitVec 24 := c.extractLsb' 8 24

/-- OPCODE, bits 7:0 of a command word (30_encoding.md R70). -/
def opcodeField (c : Word) : Byte := c.extractLsb' 0 8

/-- The command an OPCODE selects (30_encoding.md R71, R72). -/
def commandOfOpcode (op : Byte) : Option Instr :=
  match op.toNat with
  | 0x01 => some .red
  | 0x02 => some .payBmp
  | 0x03 => some .payTga
  | 0x04 => some .hdrBmp
  | 0x05 => some .hdrTga
  | 0x06 => some .encBmp
  | 0x07 => some .encTga
  | _ => none

/-- 30_encoding.md R71: every 32-bit word either selects one command or is rejected, RSV looked at first. -/
def decode (c : Word) : Except DecodeReject Instr :=
  if rsvField c ≠ 0 then .error .reservedBits
  else match commandOfOpcode (opcodeField c) with
    | some i => .ok i
    | none => .error .opcode

/-- OPCODE of a command, from the table of 30_encoding.md R72. -/
def opcodeOf (i : Instr) : Byte :=
  match i with
  | .red => 0x01
  | .payBmp => 0x02
  | .payTga => 0x03
  | .hdrBmp => 0x04
  | .hdrTga => 0x05
  | .encBmp => 0x06
  | .encTga => 0x07

/-- The CMD word of a command: the two fields of 30_encoding.md R70, RSV = 0 above OPCODE. -/
def encode (i : Instr) : Word := (opcodeOf i).setWidth 32

/-- The decoder on a row of spec/opcode_table.json: every row has the one format CMD32, whose bits the
table numbers as the word does. Bits above `nbits` are 0, and no command is longer than 32 bits (30_encoding.md R70, R74;
log entry 24). -/
def decodeTableWord (nbits w : Nat) : Option Instr :=
  if nbits ≤ 32 then
    match decode (BitVec.ofNat 32 (w % 2 ^ nbits)) with
    | .ok i => some i
    | .error _ => none
  else none

end Sys2Proof
end

