-- ==== Sys2Proof/Machine/Address.lean ====
section
/-! DEFINITION. Bus accesses, the block's three windows and which accesses they accept (20_memory.md R50, R51, R54). -/

namespace Sys2Proof.Machine

/-- One bus access of the host (30_encoding.md R81): its bus address, its width in bytes and, for a write, its value.
A width no window takes is a bus error, so any width may stand here; a value is held in 32 bits,
the widest a window takes (DESIGN CHOICE, log entry 20). -/
inductive Access where
  | read (address width : Nat)
  | write (address width : Nat) (value : Word)
  deriving DecidableEq, Repr

/-- The access's bus address: that of its first byte, by which it is placed (DEDUCED, log entry 9). -/
def Access.address : Access → Nat
  | .read a _ => a
  | .write a _ _ => a

/-- The access's width in bytes. -/
def Access.width : Access → Nat
  | .read _ w => w
  | .write _ w _ => w

/-- Whether the access is a read. -/
def Access.isRead : Access → Bool
  | .read _ _ => true
  | .write _ _ _ => false

/-- What the outside does to the block. -/
inductive HostEvent where
  /-- One bus access. -/
  | access (a : Access)
  /-- `wait`: reads of STATUS until one shows BUSY = 0 (30_encoding.md R82). It is no single access (R81), and a read of STATUS
  alone does not stand for it (DEDUCED, log entry 25). -/
  | wait
  /-- An assertion of the reset input (70_reset_and_hazards.md R230). -/
  | reset
  deriving DecidableEq, Repr

/-- The three address spaces of 20_memory.md R50. -/
inductive Space where
  | reg | src | dst
  deriving DecidableEq, Repr

/-- The bytes of a window (20_memory.md R50). -/
def spaceSize (p : Platform) : Space → Nat
  | .reg => 32
  | .src => 4 * p.srcPixels
  | .dst => p.dstSize

/-- The bus address of a window's first byte (20_memory.md R50). -/
def spaceBase (p : Platform) : Space → Nat
  | .reg => p.regBase
  | .src => p.srcBase
  | .dst => p.dstBase

/-- A bus address lies in a window. -/
abbrev inSpace (p : Platform) (sp : Space) (a : Nat) : Prop :=
  spaceBase p sp ≤ a ∧ a < spaceBase p sp + spaceSize p sp

/-- The window a bus address lies in and its offset there; none outside the three windows
(20_memory.md R50, R51). The windows of a well-formed platform do not overlap, so the order of the
tests shows only on an ill-formed one (DESIGN CHOICE, log entry 19). -/
def locate (p : Platform) (a : Nat) : Option (Space × Nat) :=
  if inSpace p .reg a then some (.reg, a - p.regBase)
  else if inSpace p .src a then some (.src, a - p.srcBase)
  else if inSpace p .dst a then some (.dst, a - p.dstBase)
  else none

/-- The widths and alignments of 20_memory.md R54: 32-bit only at multiples of 4 in REG and SRC; in DST 8-bit at any
offset, 16-bit at even offsets, 32-bit at multiples of 4. -/
def widthTaken (sp : Space) (off width : Nat) : Bool :=
  match sp with
  | .reg => decide (width = 4 ∧ off % 4 = 0)
  | .src => decide (width = 4 ∧ off % 4 = 0)
  | .dst => decide (width = 1 ∨ (width = 2 ∧ off % 2 = 0) ∨ (width = 4 ∧ off % 4 = 0))

/-- 20_memory.md R54: the accesses a window accepts, by the offset of their first byte (DEDUCED, log entry 18) and their width in
bytes. An access lies wholly inside its window. -/
abbrev accepts (p : Platform) (sp : Space) (off width : Nat) : Prop :=
  widthTaken sp off width = true ∧ off + width ≤ spaceSize p sp

/-- The byte offset of STATUS in the register window (10_state.md R21). -/
def statusOffset : Nat := 0x04

/-- The byte offset of CMD in the register window (10_state.md R21). -/
def cmdOffset : Nat := 0x00

/-- The access that may stand between a command and its end: a read of STATUS (70_reset_and_hazards.md R240). -/
abbrev isStatusRead (sp : Space) (off : Nat) (a : Access) : Prop :=
  sp = .reg ∧ off = statusOffset ∧ a.isRead = true ∧ a.width = 4

/-- An accepted write of CMD: the start of a command (10_state.md R22, 20_memory.md R57). -/
abbrev isCmdWrite (sp : Space) (off : Nat) (a : Access) : Prop :=
  sp = .reg ∧ off = cmdOffset ∧ a.isRead = false ∧ a.width = 4

end Sys2Proof.Machine
end

