-- ==== Sys2Proof/Machine/State.lean ====
section
/-! DEFINITION. The machine's state (10_state.md R36), the reasons a step stops, and the state after reset (70_reset_and_hazards.md R230, R237). -/

namespace Sys2Proof.Machine

/-- The result codes that STATUS.ERR takes (60_exceptions.md R201); codes 4 to 15 are never written. -/
inductive ErrCode where
  | ok | opcode | dim | dst
  deriving DecidableEq, Repr

/-- A host fault that is recorded, and never cleared, while the block goes on (60_exceptions.md R211). -/
inductive HostFault where
  /-- `BusError(address, width)`: an access that 20_memory.md R54 does not accept: misaligned, of a width its window does not
  take, past its window's end, or in no window (20_memory.md R55; O12 of 93_implementation_defined.md). -/
  | busError (address width : Nat)
  /-- `ProtocolViolation(access)`: an access to the block, other than a read of STATUS, while a command has not been
  waited for (70_reset_and_hazards.md R240). -/
  | protocolViolation (a : Access)
  deriving DecidableEq, Repr

/-- Cells of a memory with `w`-bit units: (index, contents) pairs, by rising index. An index with no cell was never
written since reset, and a read of it returns any value (10_state.md R32, R34, R36). -/
abbrev Memory (w : Nat) := List (Nat × BitVec w)

/-- Why a step stops with a fault. The spec has no such step: what a host does wrong is recorded as a `HostFault` and what a
command finds wrong is reported in STATUS, and nothing is `stuck` (93_implementation_defined.md part 1). So this type has no
constructor, and a step that faults cannot be written. -/
inductive Fault
  deriving DecidableEq, Repr

/-- Why an instruction has no outcome. -/
inductive Refusal where
  /-- Raised by `exec` alone, for a command that has no meaning yet: none. Safe. -/
  | notModelled (mnemonic : String)
  deriving DecidableEq, Repr

/-- The block's state (10_state.md R36), the platform it stands on, and the model's own fields for its host. -/
structure State where
  /-- The parameters of 00_scope.md R10; no step changes them. -/
  platform : Platform
  /-- STATUS[3:0], ERR (10_state.md R23). -/
  statusErr : BitVec 4
  /-- STATUS[4], STICKY (10_state.md R23). -/
  statusSticky : Bool
  /-- WIDTH, all 32 bits (10_state.md R24). -/
  width : Word
  /-- HEIGHT, all 32 bits (10_state.md R24). -/
  height : Word
  /-- PIX_IN[23:0] (10_state.md R25). -/
  pixIn : Pixel
  /-- PIX_OUT[15:0] (10_state.md R26). -/
  pixOut : P565
  /-- OUT_LEN (10_state.md R28). -/
  outLen : Word
  /-- SRC by word index (10_state.md R30). -/
  src : Memory 24
  /-- DST by byte offset (10_state.md R33). -/
  dst : Memory 8
  /-- Host faults recorded in this run, oldest first (60_exceptions.md R211, 70_reset_and_hazards.md R237). -/
  hostFaults : List HostFault
  /-- A command was written to CMD and the host has not waited for it since (70_reset_and_hazards.md R240; log entry 25). -/
  awaiting : Bool
  /-- The model's own: the host's events still to come, in program order (DESIGN CHOICE, log entry 2). -/
  host : List HostEvent
  /-- The model's own: what the last host access read, if it was an accepted read (DESIGN CHOICE, log entry 14). -/
  response : Option Word
  /-- The model's own: the reads of unspecified contents so far, the argument of the free values (DESIGN CHOICE, log entry 4). -/
  draws : Nat
  deriving DecidableEq, Repr

/-- What one step, and one command, answers. -/
abbrev Result := Host.Outcome State Fault Refusal

/-- The launch state of 70_reset_and_hazards.md R237 on a platform: every register at its reset value (R230), SRC and
DST never written, no host fault recorded, no command in progress. The model's own fields start
empty (DESIGN CHOICE, log entries 2, 4, 14). -/
def State.resetOf (p : Platform) : State where
  platform := p
  statusErr := 0
  statusSticky := false
  width := 0
  height := 0
  pixIn := 0
  pixOut := 0
  outLen := 0
  src := []
  dst := []
  hostFaults := []
  awaiting := false
  host := []
  response := none
  draws := 0

/-- The machine right after reset, on the reference platform (DESIGN CHOICE, log entry 1). -/
def State.reset : State := State.resetOf Platform.reference

end Sys2Proof.Machine
end

