-- ==== Sys2Proof/Machine/Flags.lean ====
section
/-! DEFINITION. STATUS: its error codes and the word a read of it returns (10_state.md R23, 60_exceptions.md R201). -/

namespace Sys2Proof.Machine

/-- The value of STATUS.ERR for a result (60_exceptions.md R201). -/
def errValue : ErrCode → BitVec 4
  | .ok => 0
  | .opcode => 1
  | .dim => 2
  | .dst => 3

/-- STATUS.BUSY: 0 in every state of the model, since a command is one atomic transition (10_state.md R35, R36; log entry 11). -/
def statusBusy (_ : State) : Bool := false

/-- STATUS as a read returns it: ERR in 3:0, STICKY in 4, BUSY in 8, every reserved bit 0 (10_state.md R23, R29). -/
def statusWord (s : State) : Word :=
  s.statusErr.setWidth 32 |||
    ((BitVec.ofBool s.statusSticky).setWidth 32 <<< 4) |||
    ((BitVec.ofBool (statusBusy s)).setWidth 32 <<< 8)

/-- Bit 8 of a word read from STATUS, which `wait` tests (30_encoding.md R82). -/
def busyBit (w : Word) : Bool := w.getLsbD 8

end Sys2Proof.Machine
end

