-- ==== Sys2Proof/Machine/Ops.lean ====
section
/-! DEFINITION. The shared operations: byte sequences, memories, the register and memory updates, and how a command ends (00_scope.md R14, R15; 60_exceptions.md R206, R207). -/

namespace Sys2Proof.Machine

/-! ### Byte sequences (00_scope.md R14) -/

/-- `le16(v)`: the low byte first. -/
def le16 (v : BitVec 16) : List Byte := [v.extractLsb' 0 8, v.extractLsb' 8 8]

/-- `le32(v)`: the low byte first. -/
def le32 (v : Word) : List Byte :=
  [v.extractLsb' 0 8, v.extractLsb' 8 8, v.extractLsb' 16 8, v.extractLsb' 24 8]

/-- `zeros(n)`: `n` bytes of 0x00. -/
def zeros (n : Nat) : List Byte := List.replicate n 0

/-- `ascii("BM")`, with the codes 00_scope.md R14 takes from general knowledge (PRESUMED by the spec, log entry 21). -/
def asciiBM : List Byte := [0x42, 0x4D]

/-- The number whose little-endian bytes are given, the first in bits 7:0 (00_scope.md R15, 20_memory.md R53). -/
def leNat : List Byte → Nat
  | [] => 0
  | b :: bs => b.toNat + 256 * leNat bs

/-- The `n`-byte little-endian form of a host access's value, n = 1, 2 or 4 (00_scope.md R15). -/
def leBytes (n : Nat) (v : Word) : List Byte := (le32 v).take n

/-! ### Memories (10_state.md R36) -/

/-- The canonical form: indices strictly rising. An unlisted index reads as no value (never written), so no
listed cell can equal what an unlisted index reads as. -/
abbrev Memory.wf {w : Nat} (m : Memory w) : Prop := m.Pairwise (fun c d => c.1 < d.1)

/-- Every listed index is below a bound. -/
abbrev Memory.below {w : Nat} (m : Memory w) (n : Nat) : Prop := ∀ c ∈ m, c.1 < n

/-- The contents at an index, none where nothing was written since reset (10_state.md R36). -/
def Memory.read {w : Nat} : Memory w → Nat → Option (BitVec w)
  | [], _ => none
  | (i, v) :: m, a => if i = a then some v else Memory.read m a

/-- The cells that hold a sequence from an index on. -/
def cellsFrom {w : Nat} (a : Nat) : List (BitVec w) → Memory w
  | [] => []
  | v :: vs => (a, v) :: cellsFrom (a + 1) vs

/-- Writes a sequence from an index on and leaves every other index alone; what is written stays (00_scope.md R15, 10_state.md R33;
log entry 6). -/
def Memory.writeFrom {w : Nat} (m : Memory w) (a : Nat) (vs : List (BitVec w)) : Memory w :=
  m.filter (fun c => decide (c.1 < a)) ++ cellsFrom a vs ++ m.filter (fun c => decide (a + vs.length ≤ c.1))

/-! ### Updates of the block's state -/

/-- Counts one read of unspecified contents, so that the next read draws other free values (DESIGN CHOICE, log entry 4). -/
def nextDraw (s : State) : State := { s with draws := s.draws + 1 }

/-- `reg[PIX_OUT] <- zext_32(v)` (10_state.md R26). -/
def setPixOut (v : P565) (s : State) : State := { s with pixOut := v }

/-- `reg[OUT_LEN] <- n` (10_state.md R28); the capacity check keeps `n` in 32 bits (DEDUCED, log entry 17). -/
def setOutLen (n : Nat) (s : State) : State := { s with outLen := BitVec.ofNat 32 n }

/-- `DSTWrite(a, s)` (00_scope.md R15). -/
def dstWrite (a : Nat) (bytes : List Byte) (s : State) : State := { s with dst := s.dst.writeFrom a bytes }

/-- A pixel word written by the host: bits 23:0 are held, bits 31:24 ignored (10_state.md R31). -/
def srcWrite (i : Nat) (v : Word) (s : State) : State := { s with src := s.src.writeFrom i [v.setWidth 24] }

/-- `MemWrite(a, n, v)` of the host (00_scope.md R15). -/
def memWrite (a n : Nat) (v : Word) (s : State) : State := dstWrite a (leBytes n v) s

/-! ### How a command ends -/

/-- `raise Err(code)`: the block's one error action; it writes STATUS.ERR and STATUS.STICKY and nothing else. No state
is saved, no mode changes, no vector is taken, and there is nothing to return from (60_exceptions.md R206, R210). -/
def raiseErr (e : ErrCode) (s : State) : State := { s with statusErr := errValue e, statusSticky := true }

/-- The end of a command that passed its checks: ERR = 0, STICKY as it was (60_exceptions.md R207). -/
def succeed (s : State) : State := { s with statusErr := errValue .ok }

/-- The end of every DST-writing command: ERR_DST when the output does not fit, and otherwise the output from offset 0,
OUT_LEN, ERR = 0 (60_exceptions.md R205, 10_state.md R33). `n` is the output's length as the command's
rule gives it. -/
def emitOutput (n : Nat) (out : List Byte) (s : State) : Result :=
  if n > s.platform.dstSize then .next (raiseErr .dst s)
  else .next (succeed (setOutLen n (dstWrite 0 out (nextDraw s))))

/-! ### The host's side -/

/-- What a host access answers: the value read, or nothing. -/
def respond (r : Option Word) (s : State) : State := { s with response := r }

/-- Records a bus error: no state of the block changes, and the run goes on (20_memory.md R55; DEDUCED, log entry 7). -/
def recordBusError (a : Access) (s : State) : State :=
  respond none { s with hostFaults := s.hostFaults ++ [.busError a.address a.width] }

/-- Records a protocol violation (60_exceptions.md R211). -/
def recordViolation (a : Access) (s : State) : State :=
  { s with hostFaults := s.hostFaults ++ [.protocolViolation a] }

/-- What a protocol violation leaves of the command in progress: every result a command can write is a free value, within
what STATUS and OUT_LEN can hold, and every byte of DST is unspecified. STICKY is not cleared, since only reset clears it
(70_reset_and_hazards.md R231, R240; DEDUCED, log entry 8). -/
def unpredictResults (s : State) : State :=
  nextDraw { s with
    statusErr := (Config.freeResults s.draws).err.setWidth 4
    statusSticky := s.statusSticky || (Config.freeResults s.draws).sticky || decide ((Config.freeResults s.draws).err ≠ 0)
    pixOut := (Config.freeResults s.draws).pixOut
    outLen := BitVec.ofNat 32 ((Config.freeResults s.draws).outLen % (s.platform.dstSize + 1))
    dst := [] }

/-- A host write to CMD: from here on the command must be waited for, whether its word is legal or not (70_reset_and_hazards.md R240;
DEDUCED, log entry 12). -/
def beginCommand (s : State) : State := respond none { s with awaiting := true }

/-- The end of a `wait`, whose last read of STATUS showed BUSY = 0 (70_reset_and_hazards.md R240). -/
def endWait (s : State) : State := { s with awaiting := false }

/-- The host's next event is taken off its program. -/
def popHost (s : State) : State := { s with host := s.host.tail }

/-- Reset: every register at its reset value, SRC and DST never written, no command in progress
(70_reset_and_hazards.md R230, R232, R233). The platform, the host's program, the recorded host faults
(60_exceptions.md R211: never cleared) and the count of draws are no part of the block and stay (DEDUCED, log entries 15 and 16). -/
def resetBlock (s : State) : State :=
  { State.resetOf s.platform with hostFaults := s.hostFaults, host := s.host, draws := s.draws }

end Sys2Proof.Machine
end

