-- ==== Sys2Proof/Machine/Operands.lean ====
section
/-! DEFINITION. What commands and host accesses take as operands: registers, dimensions and their checks, pixels, DST bytes (10_state.md R21 to R34; 60_exceptions.md R203, R204). -/

namespace Sys2Proof.Machine

/-! ### The register window (10_state.md R21) -/

/-- The eight registers of 10_state.md R21. -/
inductive Reg where
  | cmd | status | width | height | pixIn | pixOut | outLen | reserved
  deriving DecidableEq, Repr

/-- A register's byte offset from REG_BASE (10_state.md R21). -/
def regOffset : Reg → Nat
  | .cmd => cmdOffset
  | .status => statusOffset
  | .width => 0x08
  | .height => 0x0C
  | .pixIn => 0x10
  | .pixOut => 0x14
  | .outLen => 0x18
  | .reserved => 0x1C

/-- The register at an offset an access was accepted at; the offsets 0x00 to 0x1C are all of them (10_state.md R21). -/
def regAt (off : Nat) : Reg :=
  match off with
  | 0x00 => .cmd
  | 0x04 => .status
  | 0x08 => .width
  | 0x0C => .height
  | 0x10 => .pixIn
  | 0x14 => .pixOut
  | 0x18 => .outLen
  | _ => .reserved

/-- What a host read of a register returns: CMD and the reserved register read 0, narrow registers are
zero-extended (10_state.md R21, R22, R25, R26, R29). -/
def regRead (r : Reg) (s : State) : Word :=
  match r with
  | .cmd => 0
  | .status => statusWord s
  | .width => s.width
  | .height => s.height
  | .pixIn => s.pixIn.setWidth 32
  | .pixOut => s.pixOut.setWidth 32
  | .outLen => s.outLen
  | .reserved => 0

/-- A host write of a register other than CMD: WIDTH and HEIGHT take all 32 bits, PIX_IN bits 23:0, and the read-only
and reserved registers ignore it (10_state.md R21, R24, R25; 20_memory.md R57). A write of CMD stores nothing
(10_state.md R22); the command it starts is `runCommandWord`. -/
def regWrite (r : Reg) (v : Word) (s : State) : State :=
  match r with
  | .cmd => s
  | .status => s
  | .width => { s with width := v }
  | .height => { s with height := v }
  | .pixIn => { s with pixIn := v.setWidth 24 }
  | .pixOut => s
  | .outLen => s
  | .reserved => s

/-! ### Dimensions (30_encoding.md R77) -/

/-- `W = reg[WIDTH]`, a 32-bit unsigned number. -/
def imageW (s : State) : Nat := s.width.toNat

/-- `H = reg[HEIGHT]`, a 32-bit unsigned number. -/
def imageH (s : State) : Nat := s.height.toNat

/-- `DimOK(W, H)` for a block of `srcPixels` pixel words (60_exceptions.md R203). -/
abbrev DimOK (srcPixels W H : Nat) : Prop :=
  (1 ≤ W ∧ W ≤ 65535) ∧ (1 ≤ H ∧ H ≤ 65535) ∧ W * H ≤ srcPixels

/-- `LenOK(W, H)` (60_exceptions.md R204). -/
abbrev LenOK (W H : Nat) : Prop := 70 + 2 * W * H ≤ 2 ^ 32 - 1

/-- Runs the rest of a command on W and H once DimOK holds, and LenOK where the command checks it; ERR_DIM otherwise
(60_exceptions.md R202). -/
def withDims (checkLen : Bool) (k : Nat → Nat → Result) (s : State) : Result :=
  if ¬ DimOK s.platform.srcPixels (imageW s) (imageH s) then .next (raiseErr .dim s)
  else if checkLen = true ∧ ¬ LenOK (imageW s) (imageH s) then .next (raiseErr .dim s)
  else k (imageW s) (imageH s)

/-! ### Pixels and DST bytes -/

/-- Bits 23:16 of a pixel word (30_encoding.md R76). -/
def redField (w : Word) : Byte := w.extractLsb' 16 8

/-- Bits 15:8 of a pixel word (30_encoding.md R76). -/
def greenField (w : Word) : Byte := w.extractLsb' 8 8

/-- Bits 7:0 of a pixel word (30_encoding.md R76). -/
def blueField (w : Word) : Byte := w.extractLsb' 0 8

/-- `SRC[i]`: the 24 bits held, or a free value where the host has not written word `i` since reset (10_state.md R32). -/
def srcPixel (s : State) (i : Nat) : Pixel :=
  match s.src.read i with
  | some v => v
  | none => Config.freePixel s.draws i

/-- `SRC[i]` as a 32-bit pixel word, bits 31:24 reading 0 (10_state.md R31, 30_encoding.md R76). -/
def srcWord (s : State) (i : Nat) : Word := (srcPixel s i).setWidth 32

/-- One byte of DST: what it holds, or a free value where it is unspecified (10_state.md R34). -/
def dstByte (s : State) (a : Nat) : Byte :=
  match s.dst.read a with
  | some b => b
  | none => Config.freeByte s.draws a

/-- The `n` bytes of DST from an offset on. -/
def dstBytes (s : State) (a n : Nat) : List Byte := (List.range n).map fun k => dstByte s (a + k)

/-- `MemRead(a, n)`: `n` bytes of DST assembled little-endian (00_scope.md R15, 20_memory.md R53). -/
def memRead (s : State) (a n : Nat) : Word := BitVec.ofNat 32 (leNat (dstBytes s a n))

end Sys2Proof.Machine
end

