-- ==== Sys2Proof/Machine/Reducer.lean ====
section
/-! DEFINITION. The colour reducer and its command RED (40_reducer.md). -/

namespace Sys2Proof.Machine

/-- `Reduce565(r, g, b)`, by truncation (40_reducer.md R100, R101). -/
def reduce565 (r g b : Byte) : P565 :=
  let r5 : P565 := ((r >>> 3) &&& 0x1F#8).setWidth 16
  let g6 : P565 := ((g >>> 2) &&& 0x3F#8).setWidth 16
  let b5 : P565 := ((b >>> 3) &&& 0x1F#8).setWidth 16
  (r5 <<< 11) ||| (g6 <<< 5) ||| b5

/-- `Ser565(v)`: the low byte first (40_reducer.md R104). -/
def ser565 (v : P565) : List Byte := le16 v

/-- `ReducePix(w)`: the reduction of a pixel word (40_reducer.md R105). -/
def reducePix (w : Word) : P565 := reduce565 (redField w) (greenField w) (blueField w)

/-- RED: PIX_OUT is the reduction of PIX_IN (40_reducer.md R106). -/
def execRed (s : State) : Result := .next (succeed (setPixOut (reducePix (s.pixIn.setWidth 32)) s))

end Sys2Proof.Machine
end

