-- ==== Sys2Proof/Machine/RowReorder.lean ====
section
/-! DEFINITION. The row reorderer and its commands PAY_BMP and PAY_TGA (41_row_reorder.md). `px i` is pixel word `i` of SRC. -/

namespace Sys2Proof.Machine

/-- The payload length `2 * W * H` (41_row_reorder.md R120). -/
def payloadLen (W H : Nat) : Nat := 2 * W * H

/-- Source row `y`, columns left to right, reduced and serialized, with no padding (41_row_reorder.md R121, R122). -/
def rowBytes (px : Nat → Word) (W y : Nat) : List Byte :=
  (List.range W).flatMap fun x => ser565 (reducePix (px (y * W + x)))

/-- `PayloadBMP(W, H)`: stored row `k` is source row `H-1-k` (41_row_reorder.md R122, R124). -/
def payloadBmp (px : Nat → Word) (W H : Nat) : List Byte :=
  (List.range H).flatMap fun k => rowBytes px W (H - 1 - k)

/-- `PayloadTGA(W, H)`: stored row `k` is source row `k` (41_row_reorder.md R123, R124). -/
def payloadTga (px : Nat → Word) (W H : Nat) : List Byte :=
  (List.range H).flatMap fun k => rowBytes px W k

/-- PAY_BMP (41_row_reorder.md R126). -/
def execPayBmp (s : State) : Result :=
  withDims false (fun W H => emitOutput (payloadLen W H) (payloadBmp (srcWord s) W H) s) s

/-- PAY_TGA (41_row_reorder.md R127). -/
def execPayTga (s : State) : Result :=
  withDims false (fun W H => emitOutput (payloadLen W H) (payloadTga (srcWord s) W H) s) s

end Sys2Proof.Machine
end

