-- ==== Sys2Proof/Machine/Headers.lean ====
section
/-! DEFINITION. The two header builders and their commands HDR_BMP and HDR_TGA (42_headers.md). -/

namespace Sys2Proof.Machine

/-- The BMP header's length (42_headers.md R140). -/
def bmpHeaderLen : Nat := 70

/-- The TGA header's length (42_headers.md R150). -/
def tgaHeaderLen : Nat := 18

/-- `BmpHeader(W, H)` (42_headers.md R140, R141). -/
def bmpHeader (W H : Nat) : List Byte :=
  asciiBM
    ++ le32 (BitVec.ofNat 32 (70 + payloadLen W H)) -- 2 file size
    ++ le32 0                                       -- 6 reserved
    ++ le32 70                                      -- 10 pixel data offset
    ++ le32 56                                      -- 14 header size
    ++ le32 (BitVec.ofNat 32 W)                     -- 18 width
    ++ le32 (BitVec.ofNat 32 H)                     -- 22 height, positive: bottom-up
    ++ le16 1                                       -- 26 planes
    ++ le16 16                                      -- 28 bit depth
    ++ le32 3                                       -- 30 compression: bit-field masks
    ++ le32 (BitVec.ofNat 32 (payloadLen W H))      -- 34 pixel data size
    ++ le32 0 ++ le32 0                             -- 38, 42 pixels per meter
    ++ le32 0 ++ le32 0                             -- 46, 50 palette and important colors
    ++ le32 0x0000F800                              -- 54 red mask
    ++ le32 0x000007E0                              -- 58 green mask
    ++ le32 0x0000001F                              -- 62 blue mask
    ++ le32 0                                       -- 66 reserved

/-- `TgaHeader(W, H)` (42_headers.md R151, R154; the place of byte 2 is PRESUMED by the spec, log entry 21). -/
def tgaHeader (W H : Nat) : List Byte :=
  [0x00, 0x00, 0x02]                                -- 0 ID length, 1 color-map type, 2 image type
    ++ zeros 5                                      -- 3 to 7 color-map specification
    ++ le16 0 ++ le16 0                             -- 8 X origin, 10 Y origin
    ++ le16 (BitVec.ofNat 16 W)                     -- 12 width
    ++ le16 (BitVec.ofNat 16 H)                     -- 14 height
    ++ [0x10, 0x20]                                 -- 16 bits per pixel, 17 image descriptor

/-- HDR_BMP (42_headers.md R155). -/
def execHdrBmp (s : State) : Result :=
  withDims true (fun W H => emitOutput bmpHeaderLen (bmpHeader W H) s) s

/-- HDR_TGA (42_headers.md R156). -/
def execHdrTga (s : State) : Result :=
  withDims false (fun W H => emitOutput tgaHeaderLen (tgaHeader W H) s) s

end Sys2Proof.Machine
end

