-- ==== Sys2Proof/Machine/Encode.lean ====
section
/-! DEFINITION. The whole-container commands ENC_BMP and ENC_TGA (43_encode.md). -/

namespace Sys2Proof.Machine

/-- ENC_BMP: the header followed at once by the payload (43_encode.md R170, R171). -/
def execEncBmp (s : State) : Result :=
  withDims true
    (fun W H => emitOutput (bmpHeaderLen + payloadLen W H) (bmpHeader W H ++ payloadBmp (srcWord s) W H) s) s

/-- ENC_TGA: the header followed at once by the payload (43_encode.md R170, R172). -/
def execEncTga (s : State) : Result :=
  withDims false
    (fun W H => emitOutput (tgaHeaderLen + payloadLen W H) (tgaHeader W H ++ payloadTga (srcWord s) W H) s) s

end Sys2Proof.Machine
end

