-- ==== Sys2Proof/Machine/Dispatch.lean ====
section
/-! DEFINITION. The meaning of every command, one arm each (30_encoding.md R71). -/

namespace Sys2Proof.Machine

def exec (i : Instr) (s : State) : Host.Outcome State Fault Refusal :=
  match i with
  | .red => Sys2Proof.Machine.execRed s
  | .payBmp => Sys2Proof.Machine.execPayBmp s
  | .payTga => Sys2Proof.Machine.execPayTga s
  | .hdrBmp => Sys2Proof.Machine.execHdrBmp s
  | .hdrTga => Sys2Proof.Machine.execHdrTga s
  | .encBmp => Sys2Proof.Machine.execEncBmp s
  | .encTga => Sys2Proof.Machine.execEncTga s

end Sys2Proof.Machine
end

