-- ==== Sys2Proof/Machine/HostBus.lean ====
section
/-! DEFINITION. A host event: an access to the block and the command a write of CMD starts, a wait, a protocol violation, reset (20_memory.md R54 to R61; 30_encoding.md R71, R82; 70_reset_and_hazards.md R240). -/

namespace Sys2Proof.Machine

/-- The command a word written to CMD starts: ERR_OPCODE for a word that is no command (30_encoding.md R71, R73). -/
def runCommandWord (c : Word) (s : State) : Result :=
  match decode c with
  | .ok i => exec i s
  | .error _ => .next (raiseErr .opcode s)

/-- An accepted read of a register: no state of the block changes (20_memory.md R57). -/
def hostRegRead (r : Reg) (s : State) : State := respond (some (regRead r s)) s

/-- `wait`. Its loop runs once, because BUSY is 0 in every state of the model (30_encoding.md R82, 10_state.md R35), and
then the command has been waited for (70_reset_and_hazards.md R240). -/
def hostWait (s : State) : State := endWait (hostRegRead .status s)

/-- An accepted host read (30_encoding.md R81). A read of SRC or DST counts a draw, so that two reads of
unspecified contents need not agree (10_state.md R32, R34; DESIGN CHOICE, log entry 4). -/
def hostRead (sp : Space) (off width : Nat) (s : State) : State :=
  match sp with
  | .reg => hostRegRead (regAt off) s
  | .src => nextDraw (respond (some (srcWord s (off / 4))) s)
  | .dst => nextDraw (respond (some (memRead s off width)) s)

/-- An accepted host write other than one of CMD: it stores its value, or is ignored, and does nothing else (20_memory.md R57). -/
def hostWrite (sp : Space) (off width : Nat) (v : Word) (s : State) : State :=
  match sp with
  | .reg => respond none (regWrite (regAt off) v s)
  | .src => respond none (srcWrite (off / 4) v s)
  | .dst => respond none (memWrite off width v s)

/-- An access that its window accepts (20_memory.md R54, R57): a write of CMD runs its command to the end (R60). -/
def acceptedAccess (sp : Space) (off : Nat) (a : Access) (s : State) : Result :=
  match a with
  | .read _ width => .next (hostRead sp off width s)
  | .write _ width v =>
    if sp = .reg ∧ off = cmdOffset then runCommandWord v (beginCommand s)
    else .next (hostWrite sp off width v s)

/-- What a forbidden access does itself: one that its window does not accept is a bus error as well (log entry 22), a read
returns what then stands there, and a write may or may not take effect (70_reset_and_hazards.md R240). A write of CMD that
takes effect runs a command, whose results `violation` leaves open. -/
def forbiddenEffect (sp : Space) (off : Nat) (a : Access) (s : State) : State :=
  if ¬ accepts s.platform sp off a.width then recordBusError a s
  else match a with
    | .read _ width => hostRead sp off width s
    | .write _ width v => if Config.freeTaken s.draws = true then hostWrite sp off width v s else respond none s

/-- A protocol violation, recorded (60_exceptions.md R211), after which the host and the block go on: the access may or may
not take effect, and what the command leaves is open before it and, anew, after it, because the command may see old or new
values (70_reset_and_hazards.md R240; DEDUCED, log entry 8). -/
def violation (sp : Space) (off : Nat) (a : Access) (s : State) : State :=
  unpredictResults (forbiddenEffect sp off a (unpredictResults (recordViolation a s)))

/-- One host access. Outside the windows it is no access to the block (20_memory.md R51) and is a bus error (O12 of
93_implementation_defined.md; log entry 9); between a command and its wait only a read of STATUS may stand
(70_reset_and_hazards.md R240); an access its window does not accept is a bus error (20_memory.md R55). -/
def hostAccess (a : Access) (s : State) : Result :=
  match locate s.platform a.address with
  | none => .next (recordBusError a s)
  | some (sp, off) =>
    if s.awaiting = true ∧ ¬ isStatusRead sp off a then .next (violation sp off a s)
    else if ¬ accepts s.platform sp off a.width then .next (recordBusError a s)
    else acceptedAccess sp off a s

/-- One event from outside: an access, a wait, or reset (70_reset_and_hazards.md R230). -/
def hostEvent (e : HostEvent) (s : State) : Result :=
  match e with
  | .access a => hostAccess a s
  | .wait => .next (hostWait s)
  | .reset => .next (resetBlock s)

/-- The CMD write that starts a command word, at the head of the host's program, with no command awaited before it. -/
def placeCommandWord (c : Word) (s : State) : State :=
  { s with awaiting := false, host := .access (.write (s.platform.regBase + cmdOffset) 4 c) :: s.host }

end Sys2Proof.Machine
end

