-- ==== Sys2Proof/Machine/Step.lean ====
section
/-! DEFINITION. One step of the machine: the host's next event, in program order (20_memory.md R61); with none pending the block is idle. -/

namespace Sys2Proof.Machine

/-- The host's next event happens to the block. With no event pending nothing happens: the engine is idle and waits
for a CMD write (70_reset_and_hazards.md R234; DEDUCED, log entry 3). -/
def step (s : State) : Host.Outcome State Fault Refusal :=
  match s.host with
  | [] => .next s
  | e :: _ => hostEvent e (popHost s)

/-- The state whose next step runs exactly the command word `w`: a write of it to CMD is the host's next event, and no
earlier command is awaited (DESIGN CHOICE, log entries 2 and 24). -/
def State.withFetchWord (s : State) (nbits w : Nat) : State :=
  placeCommandWord (BitVec.ofNat 32 (w % 2 ^ nbits)) s

end Sys2Proof.Machine
end

