-- ==== Sys2Proof/Machine/HostLanguage.lean ====
section
/-! DEFINITION. The host command language: each statement as the host events it stands for (30_encoding.md R81, R82). -/

namespace Sys2Proof.Machine

/-- A statement of 30_encoding.md R81, or a pseudo-instruction of R82. -/
inductive Stmt where
  /-- `wr REG, v` -/
  | wr (r : Reg) (v : Word)
  /-- `rd REG` -/
  | rd (r : Reg)
  /-- `wpix i, v` -/
  | wpix (i : Nat) (v : Word)
  /-- `rpix i` -/
  | rpix (i : Nat)
  /-- `wrb a, v` -/
  | wrb (a : Nat) (v : Word)
  /-- `rdb a` -/
  | rdb (a : Nat)
  /-- `rdh a` -/
  | rdh (a : Nat)
  /-- `rdw a` -/
  | rdw (a : Nat)
  /-- `cmd OP` -/
  | cmd (op : Instr)
  /-- `wait` -/
  | wait
  /-- `cmd! OP` -/
  | cmdWait (op : Instr)
  deriving DecidableEq, Repr

/-- `wr REG, v` as a bus access. -/
def regWriteAccess (p : Platform) (r : Reg) (v : Word) : Access := .write (p.regBase + regOffset r) 4 v

/-- `rd REG` as a bus access. -/
def regReadAccess (p : Platform) (r : Reg) : Access := .read (p.regBase + regOffset r) 4

/-- What a statement does: one bus access each, but for `wait` and the `cmd!` that ends in it (30_encoding.md R81, R82). -/
def stmtEvents (p : Platform) : Stmt → List HostEvent
  | .wr r v => [.access (regWriteAccess p r v)]
  | .rd r => [.access (regReadAccess p r)]
  | .wpix i v => [.access (.write (p.srcBase + 4 * i) 4 v)]
  | .rpix i => [.access (.read (p.srcBase + 4 * i) 4)]
  | .wrb a v => [.access (.write (p.dstBase + a) 1 v)]
  | .rdb a => [.access (.read (p.dstBase + a) 1)]
  | .rdh a => [.access (.read (p.dstBase + a) 2)]
  | .rdw a => [.access (.read (p.dstBase + a) 4)]
  | .cmd op => [.access (regWriteAccess p .cmd ((opcodeOf op).setWidth 32))]
  | .wait => [.wait]
  | .cmdWait op => [.access (regWriteAccess p .cmd ((opcodeOf op).setWidth 32)), .wait]

/-- A host program as the host's events. -/
def programEvents (p : Platform) (prog : List Stmt) : List HostEvent := prog.flatMap (stmtEvents p)

/-- A state whose host is about to run a program. -/
def loadProgram (prog : List Stmt) (s : State) : State := { s with host := programEvents s.platform prog }

end Sys2Proof.Machine
end

