-- ==== Sys2Proof/WellFormed.lean ====
section
/-! DEFINITION. Well-formedness: of a command, of a platform's parameters, and of a host's program. -/

namespace Sys2Proof

open Sys2Proof.Machine

/-- A command has no operand field that could be out of range (30_encoding.md R70, R75): what is left to
check is that its word is a word of the command set, RSV = 0 and OPCODE in 0x01 to 0x07 (R72). -/
def Instr.wf (i : Instr) : Bool :=
  rsvField (encode i) == 0 && decide (1 ≤ (opcodeOf i).toNat ∧ (opcodeOf i).toNat ≤ 7)

/-- A 32-bit word is a legal command word (30_encoding.md R72, R73). -/
def legalCommandWord (c : Word) : Bool :=
  match decode c with
  | .ok _ => true
  | .error _ => false

/-- Two windows do not overlap (20_memory.md R51). -/
abbrev apart (p : Platform) (a b : Space) : Prop :=
  spaceBase p a + spaceSize p a ≤ spaceBase p b ∨ spaceBase p b + spaceSize p b ≤ spaceBase p a

/-- The constraints of 00_scope.md R10 and 20_memory.md R51 on a platform. -/
abbrev Platform.wf (p : Platform) : Prop :=
  (1 ≤ p.srcPixels ∧ p.srcPixels ≤ 2 ^ 32 / 4) ∧
  (1 ≤ p.dstSize ∧ p.dstSize ≤ 2 ^ 32 - 1) ∧
  (p.regBase % 32 = 0 ∧ p.srcBase % 4 = 0 ∧ p.dstBase % 4 = 0) ∧
  (apart p .reg .src ∧ apart p .reg .dst ∧ apart p .src .dst)

/-- The host's events a model refuses or takes (70_reset_and_hazards.md R240, R244): with a command awaited, every access to
the block is a read of STATUS, and only `wait` (or reset) ends the waiting; a write of CMD starts it.
An access outside the windows is none to the block (DEDUCED, log entries 23 and 25). -/
def hostConforms (p : Platform) : (awaiting : Bool) → List HostEvent → Bool
  | _, [] => true
  | _, .reset :: es => hostConforms p false es
  | _, .wait :: es => hostConforms p false es
  | awaiting, .access a :: es =>
    match locate p a.address with
    | none => hostConforms p awaiting es
    | some (sp, off) =>
      if awaiting then decide (isStatusRead sp off a) && hostConforms p true es
      else hostConforms p (decide (isCmdWrite sp off a)) es

/-- A statement that starts a command and does not wait for it: `cmd OP`, or a `wr` of any word to CMD (30_encoding.md R82). -/
def Machine.Stmt.startsCommand : Stmt → Bool
  | .cmd _ => true
  | .wr r _ => decide (r = .cmd)
  | .rd _ => false
  | .wpix _ _ => false
  | .rpix _ => false
  | .wrb _ _ => false
  | .rdb _ => false
  | .rdh _ => false
  | .rdw _ => false
  | .wait => false
  | .cmdWait _ => false

/-- The well-formed host programs of 30_encoding.md R82: `wait` stands after every `cmd` before the next statement other than
`rd STATUS` (70_reset_and_hazards.md R240, R244). -/
def programConforms : (awaiting : Bool) → List Stmt → Bool
  | _, [] => true
  | awaiting, st :: rest =>
    if st = .wait then programConforms false rest
    else if awaiting then decide (st = .rd .status) && programConforms true rest
    else programConforms st.startsCommand rest

/-- The SRC word or DST byte a statement names is one the platform has (30_encoding.md R81, 10_state.md R30, R33). -/
def Machine.Stmt.inRange (p : Platform) : Stmt → Bool
  | .wpix i _ => decide (i < p.srcPixels)
  | .rpix i => decide (i < p.srcPixels)
  | .wrb a _ => decide (a < p.dstSize)
  | .rdb a => decide (a < p.dstSize)
  | .rdh a => decide (a < p.dstSize)
  | .rdw a => decide (a < p.dstSize)
  | .wr _ _ => true
  | .rd _ => true
  | .cmd _ => true
  | .wait => true
  | .cmdWait _ => true

end Sys2Proof
end

