-- ==== Sys2Proof/Safety.lean ====
section
/-! DEFINITION. The terms claims are stated in: the launch premise, a successful run, a specified image, and the invariant of the machine. -/

namespace Sys2Proof.Machine

/-- The launch premise of 70_reset_and_hazards.md R237, on a platform that meets its constraints, with any host program. -/
def Safety.launch (s : State) : Prop :=
  s.platform.wf ∧ s = { State.resetOf s.platform with host := s.host }

/-- A run that has ended, with no command in progress and no host fault recorded (70_reset_and_hazards.md R247). -/
def Safety.successful (r : Result) : Prop :=
  ∃ s, r = .next s ∧ s.host = [] ∧ s.awaiting = false ∧ s.hostFaults = []

/-- A protocol violation has been recorded in this run (60_exceptions.md R211). -/
def Safety.violated (s : State) : Prop := ∃ a, HostFault.protocolViolation a ∈ s.hostFaults

/-- The host program still to come is one the model takes (70_reset_and_hazards.md R240). -/
def Safety.conforming (s : State) : Prop := hostConforms s.platform s.awaiting s.host = true

/-- The host wrote every SRC word of the image since reset: the premise of 70_reset_and_hazards.md R236. -/
def Safety.imageWritten (s : State) : Prop := ∀ i, i < imageW s * imageH s → (s.src.read i).isSome = true

/-- The output length of a command on a W x H image, none for RED (60_exceptions.md R205). -/
def Safety.outputLength (i : Instr) (W H : Nat) : Option Nat :=
  match i with
  | .red => none
  | .payBmp => some (2 * W * H)
  | .payTga => some (2 * W * H)
  | .hdrBmp => some 70
  | .hdrTga => some 18
  | .encBmp => some (70 + 2 * W * H)
  | .encTga => some (18 + 2 * W * H)

/-- The commands that check LenOK (60_exceptions.md R202). -/
def Safety.checksLength (i : Instr) : Bool :=
  match i with
  | .red => false
  | .payBmp => false
  | .payTga => false
  | .hdrBmp => true
  | .hdrTga => false
  | .encBmp => true
  | .encTga => false

/-- The commands that read SRC (the reads column of 30_encoding.md R72). -/
def Safety.readsSource (i : Instr) : Bool :=
  match i with
  | .red => false
  | .payBmp => true
  | .payTga => true
  | .hdrBmp => false
  | .hdrTga => false
  | .encBmp => true
  | .encTga => true

/-- The value of ERR after a command: the first check of 60_exceptions.md R202 that fails, or 0. -/
def Safety.firstError (i : Instr) (s : State) : BitVec 4 :=
  match Safety.outputLength i (imageW s) (imageH s) with
  | none => 0
  | some n =>
    if ¬ DimOK s.platform.srcPixels (imageW s) (imageH s) then 2
    else if Safety.checksLength i = true ∧ ¬ LenOK (imageW s) (imageH s) then 2
    else if s.platform.dstSize < n then 3
    else 0

/-- DST holds a field of `n` bytes at offset `a` with value `v`, little-endian (00_scope.md R14, 20_memory.md R52). -/
def Safety.holdsField (m : Memory 8) (a n v : Nat) : Prop :=
  ∀ k, k < n → m.read (a + k) = some (BitVec.ofNat 8 (v / 256 ^ k))

/-- DST holds at offset `a` the two bytes of a pixel's RGB565 value, the low byte first (40_reducer.md R104). -/
def Safety.holdsPixel (m : Memory 8) (a : Nat) (q : Pixel) : Prop :=
  Safety.holdsField m a 2 (reduce565 (q.extractLsb' 16 8) (q.extractLsb' 8 8) (q.extractLsb' 0 8)).toNat

/-- DST holds from offset `base` on the image of `s`, pixel (x, y) at byte `2 * pos x y`: for a word the host has
written, its pixel; for one it has not, some pixel (10_state.md R32, 41_row_reorder.md R124). -/
def Safety.holdsImage (s : State) (m : Memory 8) (base : Nat) (pos : Nat → Nat → Nat) : Prop :=
  ∀ x y, x < imageW s → y < imageH s →
    ∃ q, (∀ p, s.src.read (y * imageW s + x) = some p → q = p) ∧ Safety.holdsPixel m (base + 2 * pos x y) q

/-- The place of pixel (x, y) in a bottom-up payload (41_row_reorder.md R122, R124). -/
def Safety.bottomUp (s : State) (x y : Nat) : Nat := (imageH s - 1 - y) * imageW s + x

/-- The place of pixel (x, y) in a top-down payload (41_row_reorder.md R123, R124). -/
def Safety.topDown (s : State) (x y : Nat) : Nat := y * imageW s + x

/-- The table of 42_headers.md R140: offset, length in bytes, value. -/
def Safety.bmpFields (W H : Nat) : List (Nat × Nat × Nat) :=
  [(0, 2, 0x4D42), (2, 4, 70 + 2 * W * H), (6, 4, 0), (10, 4, 70), (14, 4, 56), (18, 4, W), (22, 4, H),
   (26, 2, 1), (28, 2, 16), (30, 4, 3), (34, 4, 2 * W * H), (38, 4, 0), (42, 4, 0), (46, 4, 0), (50, 4, 0),
   (54, 4, 0xF800), (58, 4, 0x7E0), (62, 4, 0x1F), (66, 4, 0)]

/-- The table of 42_headers.md R151: offset, length in bytes, value. -/
def Safety.tgaFields (W H : Nat) : List (Nat × Nat × Nat) :=
  [(0, 1, 0), (1, 1, 0), (2, 1, 2), (3, 2, 0), (5, 2, 0), (7, 1, 0), (8, 2, 0), (10, 2, 0), (12, 2, W), (14, 2, H),
   (16, 1, 16), (17, 1, 0x20)]

/-- DST holds every field of a header table. -/
def Safety.holdsFields (m : Memory 8) (fields : List (Nat × Nat × Nat)) : Prop :=
  ∀ f, f ∈ fields → Safety.holdsField m f.1 f.2.1 f.2.2

/-- A DST-writing command succeeded with output length `n`: OUT_LEN = n, ERR = 0, every DST byte from `n` on is as
before, and no field but DST, OUT_LEN, ERR and the count of draws differs (10_state.md R28, R33; 60_exceptions.md R207). -/
def Safety.wroteOutput (s t : State) (n : Nat) : Prop :=
  t = { s with dst := t.dst, outLen := t.outLen, statusErr := 0, draws := t.draws } ∧
  t.outLen.toNat = n ∧ (∀ a, n ≤ a → t.dst.read a = s.dst.read a)

/-- The command ends with an error: STATUS.ERR is the code, STICKY is 1, and nothing else changes (60_exceptions.md R206). -/
def Safety.failsWith (i : Instr) (s : State) (code : BitVec 4) : Prop :=
  exec i s = .next { s with statusErr := code, statusSticky := true }

/-- What holds of every state the machine reaches from a launch: the platform meets its constraints, both memories
are in canonical form and inside their windows, ERR is a code that is written (10_state.md R23), a
failed last command has left STICKY (R23), OUT_LEN fits DST, and DST holds a byte at every offset below OUT_LEN (R28)
unless a protocol violation has left DST open (70_reset_and_hazards.md R240). -/
structure State.Inv (s : State) : Prop where
  platform_wf : s.platform.wf
  src_wf : s.src.wf
  src_below : s.src.below s.platform.srcPixels
  dst_wf : s.dst.wf
  dst_below : s.dst.below s.platform.dstSize
  err_le : s.statusErr.toNat ≤ 3
  err_sticky : s.statusErr ≠ 0 → s.statusSticky = true
  outLen_le : s.outLen.toNat ≤ s.platform.dstSize
  out_written : ¬ Safety.violated s → ∀ a, a < s.outLen.toNat → (s.dst.read a).isSome = true

end Sys2Proof.Machine
end

