-- ==== Sys2Proof/Certificates/Slice0/Obligations.lean ====
section
/-! DEFINITION. The statements for the provers: what reset leaves, how a command word is decoded and run, what each command does and leaves unchanged, its errors, and what a host access does. -/

open Sys2Proof Sys2Proof.Machine

/-! ### Reset and launch -/

/-- 70_reset_and_hazards.md R230, R232: an assertion of reset and power-on (`State.resetOf`) have the same effect: every
register reads 0, every SRC word and DST byte is never written, and no command is in progress. -/
def Obligations.ResetZeroesRegistersAndForgetsMemories : Prop :=
  (∀ (s : State) (es : List HostEvent), s.host = .reset :: es →
    ∃ t, step s = .next t ∧ (∀ r, regRead r t = 0) ∧
      t.statusErr = 0 ∧ t.statusSticky = false ∧ t.width = 0 ∧ t.height = 0 ∧ t.pixIn = 0 ∧ t.pixOut = 0 ∧
      t.outLen = 0 ∧ (∀ i, t.src.read i = none) ∧ (∀ a, t.dst.read a = none) ∧ t.awaiting = false) ∧
  (∀ p : Platform, (∀ r, regRead r (State.resetOf p) = 0) ∧ (∀ i, (State.resetOf p).src.read i = none) ∧
    (∀ a, (State.resetOf p).dst.read a = none) ∧ (State.resetOf p).awaiting = false)

/-- The model's choice (log entries 14, 15, 16): reset leaves what is no part of the block, that is the platform, the rest of
the host's program, the recorded host faults and the count of draws; all else is as at launch, so no response stands and no
command is awaited. -/
def Obligations.ResetKeepsWhatIsNotTheBlocks : Prop :=
  ∀ (s : State) (es : List HostEvent), s.host = .reset :: es →
    step s = .next { State.resetOf s.platform with host := es, hostFaults := s.hostFaults, draws := s.draws }

/-- The invariant of `State.Inv` holds at every launch (70_reset_and_hazards.md R237): on every well-formed platform, with
any host program. -/
def Obligations.LaunchStateMeetsInvariant : Prop :=
  ∀ s : State, Safety.launch s → s.Inv ∧ s.hostFaults = [] ∧ s.awaiting = false

/-- Every step keeps `State.Inv`, from every state that meets it: memories in canonical form and inside their windows,
ERR a written code, a failed last command shown by STICKY, DST specified below OUT_LEN unless a protocol violation is
recorded. -/
def Obligations.StepKeepsInvariant : Prop :=
  ∀ s t : State, s.Inv → step s = .next t → t.Inv

/-- 70_reset_and_hazards.md R231: no step but a reset clears STATUS.STICKY, a protocol violation among them. -/
def Obligations.OnlyResetClearsSticky : Prop :=
  ∀ s t : State, step s = .next t → s.statusSticky = true → (∀ es, s.host ≠ .reset :: es) → t.statusSticky = true

/-- 10_state.md R29: reserved STATUS bits and the reserved register read 0 in every state, and writes to them have no effect. -/
def Obligations.ReservedBitsReadZero : Prop :=
  ∀ (s : State) (v : Word),
    (statusWord s).extractLsb' 5 3 = 0 ∧ (statusWord s).extractLsb' 9 23 = 0 ∧ regRead .reserved s = 0 ∧
    regWrite .status v s = s ∧ regWrite .reserved v s = s

/-- 10_state.md R23, R35: where ERR, STICKY and BUSY stand in a read of STATUS, and that BUSY is 0 in every state. -/
def Obligations.StatusReadShowsErrStickyAndNoBusy : Prop :=
  ∀ s : State, (statusWord s).extractLsb' 0 4 = s.statusErr ∧ (statusWord s).getLsbD 4 = s.statusSticky ∧
    (statusWord s).getLsbD 8 = false

/-! ### Command words -/

/-- 30_encoding.md R72: decoding a command's word gives the command back, and every command is well formed. -/
def Obligations.DecodeOfEncodeIsTheCommand : Prop :=
  ∀ i : Instr, i.wf = true ∧ decode (encode i) = .ok i

/-- 30_encoding.md R71 to R73: a word decodes to a command exactly when it is that command's word. -/
def Obligations.DecodeAcceptsOnlyEncodedWords : Prop :=
  ∀ (c : Word) (i : Instr), decode c = .ok i ↔ c = encode i

/-- The seven CMD words, written out from the table of 30_encoding.md R72. -/
def Obligations.TableWordsDecodeToTheirCommands : Prop :=
  decode 0x00000001 = .ok .red ∧ decode 0x00000002 = .ok .payBmp ∧ decode 0x00000003 = .ok .payTga ∧
  decode 0x00000004 = .ok .hdrBmp ∧ decode 0x00000005 = .ok .hdrTga ∧ decode 0x00000006 = .ok .encBmp ∧
  decode 0x00000007 = .ok .encTga

/-- 30_encoding.md R73, 60_exceptions.md R206: a word with RSV != 0, OPCODE 0x00 or OPCODE 0x08 to 0xFF changes STATUS
only: ERR = 1 (ERR_OPCODE), STICKY = 1. -/
def Obligations.IllegalWordRaisesErrOpcodeOnly : Prop :=
  ∀ (c : Word) (s : State),
    (c.extractLsb' 8 24 ≠ 0 ∨ c.extractLsb' 0 8 = 0 ∨ 8 ≤ (c.extractLsb' 0 8).toNat) →
    runCommandWord c s = .next { s with statusErr := 1, statusSticky := true }

/-- 30_encoding.md R71, 20_memory.md R60: a step whose event is a 32-bit write of a command's word to CMD, with no command
awaited, is that command's whole execution. What the host's fields hold meanwhile is the model's choice (log entries 2, 12, 14). -/
def Obligations.StepRunsTheDecodedCommand : Prop :=
  ∀ (s : State) (es : List HostEvent) (c : Word) (i : Instr),
    s.host = .access (.write (s.platform.regBase + 0x00) 4 c) :: es → s.awaiting = false → decode c = .ok i →
    step s = exec i { s with host := es, awaiting := true, response := none }

/-- 30_encoding.md R71: a step whose event is a 32-bit write to CMD of a word that decodes to no command ends with ERR_OPCODE.
That it must be waited for all the same, and answers nothing, is the model's choice (log entries 12, 14). -/
def Obligations.StepOnIllegalWordRaisesErrOpcode : Prop :=
  ∀ (s : State) (es : List HostEvent) (c : Word) (e : DecodeReject),
    s.host = .access (.write (s.platform.regBase + 0x00) 4 c) :: es → s.awaiting = false → decode c = .error e →
    step s = .next { s with host := es, awaiting := true, response := none, statusErr := 1, statusSticky := true }

/-- 70_reset_and_hazards.md R246: every command ends, and so does every word written to CMD. -/
def Obligations.EveryCommandEnds : Prop :=
  ∀ s : State, (∀ i : Instr, ∃ t, exec i s = .next t) ∧ (∀ c : Word, ∃ t, runCommandWord c s = .next t)

/-! ### The colour reducer -/

/-- 40_reducer.md R102: the three fields of the reduction are the channels' top bits. -/
def Obligations.ReductionFieldsAreTruncatedChannels : Prop :=
  ∀ r g b : Byte,
    ((reduce565 r g b).extractLsb' 11 5).toNat = r.toNat >>> 3 ∧
    ((reduce565 r g b).extractLsb' 5 6).toNat = g.toNat >>> 2 ∧
    ((reduce565 r g b).extractLsb' 0 5).toNat = b.toNat >>> 3

/-- 40_reducer.md R100: the reduction is the concatenation {r[7:3], g[7:2], b[7:3]}. -/
def Obligations.ReductionIsConcatenationOfTopBits : Prop :=
  ∀ r g b : Byte, reduce565 r g b = r.extractLsb' 3 5 ++ g.extractLsb' 2 6 ++ b.extractLsb' 3 5

/-- 40_reducer.md R101: the reduction truncates, and the low 3, 2 and 3 bits of the channels have no effect on it. -/
def Obligations.ReductionTruncatesEachChannel : Prop :=
  (∀ r g b : Byte,
    (reduce565 r g b).toNat = r.toNat / 8 * 2 ^ 11 + g.toNat / 4 * 2 ^ 5 + b.toNat / 8) ∧
  (∀ r g b r' g' b' : Byte,
    r.toNat / 8 = r'.toNat / 8 → g.toNat / 4 = g'.toNat / 4 → b.toNat / 8 = b'.toNat / 8 →
    reduce565 r g b = reduce565 r' g' b')

/-- 40_reducer.md R103: every 16-bit value is a reduction, and the inputs that give 0x0000 and 0xFFFF. -/
def Obligations.ReductionIsOntoWithItsExtremes : Prop :=
  (∀ v : P565, reduce565 ((v.extractLsb' 11 5).setWidth 8 <<< 3) ((v.extractLsb' 5 6).setWidth 8 <<< 2)
    ((v.extractLsb' 0 5).setWidth 8 <<< 3) = v) ∧
  (∀ r g b : Byte, reduce565 r g b = 0x0000 ↔ r.toNat < 8 ∧ g.toNat < 4 ∧ b.toNat < 8) ∧
  (∀ r g b : Byte, reduce565 r g b = 0xFFFF ↔ 0xF8 ≤ r.toNat ∧ 0xFC ≤ g.toNat ∧ 0xF8 ≤ b.toNat)

/-- 40_reducer.md R104: an RGB565 value is serialized in two bytes, the least significant first. -/
def Obligations.SerializationIsLowByteFirst : Prop :=
  ∀ v : P565, (ser565 v).map BitVec.toNat = [v.toNat % 256, v.toNat / 256]

/-- 40_reducer.md R106: RED, from every state: its result, ERR = 0, and everything else unchanged. -/
def Obligations.RedReducesPixInIntoPixOut : Prop :=
  decode 0x00000001 = .ok .red ∧
  ∀ s : State, exec .red s = .next { s with
    pixOut := reduce565 (s.pixIn.extractLsb' 16 8) (s.pixIn.extractLsb' 8 8) (s.pixIn.extractLsb' 0 8), statusErr := 0 }

/-! ### Payloads -/

/-- 41_row_reorder.md R120: a payload is exactly 2 * W * H bytes. -/
def Obligations.PayloadsAreTwoBytesPerPixel : Prop :=
  ∀ (px : Nat → Word) (W H : Nat),
    (payloadBmp px W H).length = 2 * W * H ∧ (payloadTga px W H).length = 2 * W * H

/-- 41_row_reorder.md R124: the byte offsets of pixel (x, y) in the two payloads, bottom-up and top-down. -/
def Obligations.PayloadByteOffsetsOfEachPixel : Prop :=
  ∀ (px : Nat → Word) (W H x y : Nat), x < W → y < H →
    let q := reduce565 ((px (y * W + x)).extractLsb' 16 8) ((px (y * W + x)).extractLsb' 8 8)
      ((px (y * W + x)).extractLsb' 0 8)
    (payloadBmp px W H)[2 * ((H - 1 - y) * W + x)]? = some (q.extractLsb' 0 8) ∧
    (payloadBmp px W H)[2 * ((H - 1 - y) * W + x) + 1]? = some (q.extractLsb' 8 8) ∧
    (payloadTga px W H)[2 * (y * W + x)]? = some (q.extractLsb' 0 8) ∧
    (payloadTga px W H)[2 * (y * W + x) + 1]? = some (q.extractLsb' 8 8)

/-- 41_row_reorder.md R125: the BMP payload holds the TGA payload's 2 * W byte rows in reverse order; for H = 1 they are equal. -/
def Obligations.BmpRowsAreTgaRowsReversed : Prop :=
  (∀ (px : Nat → Word) (W H k : Nat), k < H →
    ((payloadBmp px W H).drop (2 * W * k)).take (2 * W) =
      ((payloadTga px W H).drop (2 * W * (H - 1 - k))).take (2 * W)) ∧
  (∀ (px : Nat → Word) (W : Nat), payloadBmp px W 1 = payloadTga px W 1)

/-- 41_row_reorder.md R126: PAY_BMP. ERR_DIM where DimOK fails; ERR_DST where the payload does not fit; otherwise, whatever SRC
holds, every pixel at its bottom-up place from offset 0, OUT_LEN = 2 * W * H, ERR = 0, and nothing else changed. -/
def Obligations.PayBmpWritesBottomUpPayload : Prop :=
  decode 0x00000002 = .ok .payBmp ∧
  ∀ s : State,
    (¬ DimOK s.platform.srcPixels (imageW s) (imageH s) → Safety.failsWith .payBmp s 2) ∧
    (DimOK s.platform.srcPixels (imageW s) (imageH s) → s.platform.dstSize < 2 * imageW s * imageH s →
      Safety.failsWith .payBmp s 3) ∧
    (s.platform.wf → DimOK s.platform.srcPixels (imageW s) (imageH s) →
      2 * imageW s * imageH s ≤ s.platform.dstSize →
      ∃ t, exec .payBmp s = .next t ∧ Safety.holdsImage s t.dst 0 (Safety.bottomUp s) ∧
        Safety.wroteOutput s t (2 * imageW s * imageH s))

/-- 41_row_reorder.md R127: PAY_TGA, as PAY_BMP, with every pixel at its top-down place. -/
def Obligations.PayTgaWritesTopDownPayload : Prop :=
  decode 0x00000003 = .ok .payTga ∧
  ∀ s : State,
    (¬ DimOK s.platform.srcPixels (imageW s) (imageH s) → Safety.failsWith .payTga s 2) ∧
    (DimOK s.platform.srcPixels (imageW s) (imageH s) → s.platform.dstSize < 2 * imageW s * imageH s →
      Safety.failsWith .payTga s 3) ∧
    (s.platform.wf → DimOK s.platform.srcPixels (imageW s) (imageH s) →
      2 * imageW s * imageH s ≤ s.platform.dstSize →
      ∃ t, exec .payTga s = .next t ∧ Safety.holdsImage s t.dst 0 (Safety.topDown s) ∧
        Safety.wroteOutput s t (2 * imageW s * imageH s))

/-! ### Headers -/

/-- 42_headers.md R142: the bytes of the BMP header that do not depend on W and H. -/
def Obligations.BmpHeaderFixedBytes : Prop :=
  ∀ W H : Nat, (bmpHeader W H).length = 70 ∧
    (bmpHeader W H).take 2 = [0x42, 0x4D] ∧
    ((bmpHeader W H).drop 6).take 12 = [0, 0, 0, 0, 0x46, 0, 0, 0, 0x38, 0, 0, 0] ∧
    ((bmpHeader W H).drop 26).take 8 = [0x01, 0, 0x10, 0, 0x03, 0, 0, 0] ∧
    ((bmpHeader W H).drop 38).take 16 = List.replicate 16 0 ∧
    (bmpHeader W H).drop 54 = [0, 0xF8, 0, 0, 0xE0, 0x07, 0, 0, 0x1F, 0, 0, 0, 0, 0, 0, 0]

/-- 42_headers.md R143, R144: for dimensions the checks let through, the file size field is the length of header and
payload, the pixel data size field that of the payload, and width and height stand as positive numbers. -/
def Obligations.BmpHeaderNumbersAreTheLengths : Prop :=
  ∀ (px : Nat → Word) (p W H : Nat), DimOK p W H → LenOK W H →
    leNat (((bmpHeader W H).drop 2).take 4) = (bmpHeader W H ++ payloadBmp px W H).length ∧
    leNat (((bmpHeader W H).drop 34).take 4) = (payloadBmp px W H).length ∧
    leNat (((bmpHeader W H).drop 10).take 4) = (bmpHeader W H).length ∧
    leNat (((bmpHeader W H).drop 18).take 4) = W ∧ leNat (((bmpHeader W H).drop 22).take 4) = H

/-- 42_headers.md R140, R155: HDR_BMP. ERR_DIM where DimOK or LenOK fails; ERR_DST where 70 bytes do not fit; otherwise every field of
the header's table at its offset, OUT_LEN = 70, ERR = 0, and nothing else changed. -/
def Obligations.HdrBmpWritesTheHeaderTable : Prop :=
  decode 0x00000004 = .ok .hdrBmp ∧
  ∀ s : State,
    (¬ DimOK s.platform.srcPixels (imageW s) (imageH s) → Safety.failsWith .hdrBmp s 2) ∧
    (DimOK s.platform.srcPixels (imageW s) (imageH s) → ¬ LenOK (imageW s) (imageH s) →
      Safety.failsWith .hdrBmp s 2) ∧
    (DimOK s.platform.srcPixels (imageW s) (imageH s) → LenOK (imageW s) (imageH s) →
      s.platform.dstSize < 70 → Safety.failsWith .hdrBmp s 3) ∧
    (s.platform.wf → DimOK s.platform.srcPixels (imageW s) (imageH s) →
      70 ≤ s.platform.dstSize →
      ∃ t, exec .hdrBmp s = .next t ∧ Safety.holdsFields t.dst (Safety.bmpFields (imageW s) (imageH s)) ∧
        Safety.wroteOutput s t 70)

/-- 42_headers.md R151, R156: HDR_TGA. ERR_DIM where DimOK fails; ERR_DST where 18 bytes do not fit; otherwise every field of the
header's table at its offset, OUT_LEN = 18, ERR = 0, and nothing else changed. -/
def Obligations.HdrTgaWritesTheHeaderTable : Prop :=
  decode 0x00000005 = .ok .hdrTga ∧
  ∀ s : State,
    (¬ DimOK s.platform.srcPixels (imageW s) (imageH s) → Safety.failsWith .hdrTga s 2) ∧
    (DimOK s.platform.srcPixels (imageW s) (imageH s) → s.platform.dstSize < 18 →
      Safety.failsWith .hdrTga s 3) ∧
    (s.platform.wf → DimOK s.platform.srcPixels (imageW s) (imageH s) →
      18 ≤ s.platform.dstSize →
      ∃ t, exec .hdrTga s = .next t ∧ Safety.holdsFields t.dst (Safety.tgaFields (imageW s) (imageH s)) ∧
        Safety.wroteOutput s t 18)

/-! ### Containers -/

/-- 43_encode.md R171: ENC_BMP. ERR_DIM where DimOK or LenOK fails; ERR_DST where the container does not fit; otherwise the header's
table, the payload bottom-up from byte 70, OUT_LEN = 70 + 2 * W * H, which the file size field equals, and nothing else changed. -/
def Obligations.EncBmpWritesTheWholeContainer : Prop :=
  decode 0x00000006 = .ok .encBmp ∧
  ∀ s : State,
    (¬ DimOK s.platform.srcPixels (imageW s) (imageH s) → Safety.failsWith .encBmp s 2) ∧
    (DimOK s.platform.srcPixels (imageW s) (imageH s) → ¬ LenOK (imageW s) (imageH s) →
      Safety.failsWith .encBmp s 2) ∧
    (DimOK s.platform.srcPixels (imageW s) (imageH s) → LenOK (imageW s) (imageH s) →
      s.platform.dstSize < 70 + 2 * imageW s * imageH s → Safety.failsWith .encBmp s 3) ∧
    (s.platform.wf → DimOK s.platform.srcPixels (imageW s) (imageH s) →
      70 + 2 * imageW s * imageH s ≤ s.platform.dstSize →
      ∃ t, exec .encBmp s = .next t ∧ Safety.holdsFields t.dst (Safety.bmpFields (imageW s) (imageH s)) ∧
        Safety.holdsImage s t.dst 70 (Safety.bottomUp s) ∧ Safety.holdsField t.dst 2 4 t.outLen.toNat ∧
        Safety.holdsField t.dst 34 4 (t.outLen.toNat - 70) ∧
        Safety.wroteOutput s t (70 + 2 * imageW s * imageH s))

/-- 43_encode.md R172: ENC_TGA. ERR_DIM where DimOK fails; ERR_DST where the container does not fit; otherwise the header's table,
the payload top-down from byte 18, OUT_LEN = 18 + 2 * W * H, and nothing else changed. -/
def Obligations.EncTgaWritesTheWholeContainer : Prop :=
  decode 0x00000007 = .ok .encTga ∧
  ∀ s : State,
    (¬ DimOK s.platform.srcPixels (imageW s) (imageH s) → Safety.failsWith .encTga s 2) ∧
    (DimOK s.platform.srcPixels (imageW s) (imageH s) → s.platform.dstSize < 18 + 2 * imageW s * imageH s →
      Safety.failsWith .encTga s 3) ∧
    (s.platform.wf → DimOK s.platform.srcPixels (imageW s) (imageH s) →
      18 + 2 * imageW s * imageH s ≤ s.platform.dstSize →
      ∃ t, exec .encTga s = .next t ∧ Safety.holdsFields t.dst (Safety.tgaFields (imageW s) (imageH s)) ∧
        Safety.holdsImage s t.dst 18 (Safety.topDown s) ∧
        Safety.wroteOutput s t (18 + 2 * imageW s * imageH s))

/-- 43_encode.md R173: from one state, what ENC writes is what HDR writes followed by what PAY writes, for each container where
it fits DST. The premise that SRC was written is 70_reset_and_hazards.md R236: two runs over unspecified pixels need not
agree (log entry 5). -/
def Obligations.EncodeIsHeaderThenPayload : Prop :=
  ∀ s : State, s.platform.wf → DimOK s.platform.srcPixels (imageW s) (imageH s) → Safety.imageWritten s →
    (70 + 2 * imageW s * imageH s ≤ s.platform.dstSize →
      ∃ e h p, exec .encBmp s = .next e ∧ exec .hdrBmp s = .next h ∧ exec .payBmp s = .next p ∧
        (∀ a, a < 70 → e.dst.read a = h.dst.read a) ∧
        (∀ a, a < 2 * imageW s * imageH s → e.dst.read (70 + a) = p.dst.read a)) ∧
    (18 + 2 * imageW s * imageH s ≤ s.platform.dstSize →
      ∃ e h p, exec .encTga s = .next e ∧ exec .hdrTga s = .next h ∧ exec .payTga s = .next p ∧
        (∀ a, a < 18 → e.dst.read a = h.dst.read a) ∧
        (∀ a, a < 2 * imageW s * imageH s → e.dst.read (18 + a) = p.dst.read a))

/-! ### Errors and frames of all commands -/

/-- 60_exceptions.md R202, R208: the one error that a word written to CMD reports is the first check that fails, the decode before
the command's own in their order, and 0 when none does. -/
def Obligations.CommandReportsItsFirstFailedCheck : Prop :=
  ∀ (c : Word) (s : State), ∃ t, runCommandWord c s = .next t ∧
    t.statusErr = match decode c with
      | .error _ => 1
      | .ok i => Safety.firstError i s

/-- 60_exceptions.md R206: a command that ends with an error changes STATUS.ERR and STATUS.STICKY and nothing else. -/
def Obligations.FailedCommandChangesStatusOnly : Prop :=
  ∀ (i : Instr) (s t : State), exec i s = .next t → t.statusErr ≠ 0 →
    t = { s with statusErr := t.statusErr, statusSticky := true }

/-- 60_exceptions.md R207: a command that ends with ERR = 0 leaves STICKY as it was. -/
def Obligations.SuccessfulCommandKeepsSticky : Prop :=
  ∀ (i : Instr) (s t : State), exec i s = .next t → t.statusErr = 0 → t.statusSticky = s.statusSticky

/-- The frame of every command (10_state.md R30, 20_memory.md R58): WIDTH, HEIGHT, PIX_IN and SRC are never written by the
engine, and neither is anything of the host's or the platform's. -/
def Obligations.CommandsNeverWriteTheirOperands : Prop :=
  ∀ (i : Instr) (s t : State), exec i s = .next t →
    t.width = s.width ∧ t.height = s.height ∧ t.pixIn = s.pixIn ∧ t.src = s.src ∧ t.platform = s.platform ∧
    t.hostFaults = s.hostFaults ∧ t.awaiting = s.awaiting ∧ t.host = s.host ∧ t.response = s.response

/-- 10_state.md R26, R28: PIX_OUT is written by RED only; OUT_LEN only by a successful DST-writing command, with its output's length. -/
def Obligations.ResultRegistersHaveOneWriterEach : Prop :=
  ∀ (i : Instr) (s t : State), s.platform.wf → exec i s = .next t →
    (i ≠ .red → t.pixOut = s.pixOut) ∧
    (i = .red ∨ t.statusErr ≠ 0 → t.outLen = s.outLen) ∧
    (∀ n, Safety.outputLength i (imageW s) (imageH s) = some n → t.statusErr = 0 → t.outLen.toNat = n)

/-- 10_state.md R33, 20_memory.md R59: a successful DST-writing command specifies the bytes below its new OUT_LEN and leaves every
other byte of DST; RED and a failed command leave all of DST. -/
def Obligations.DstChangesOnlyBelowOutLen : Prop :=
  ∀ (i : Instr) (s t : State), s.platform.wf → exec i s = .next t →
    (i = .red ∨ t.statusErr ≠ 0 → t.dst = s.dst) ∧
    (i ≠ .red → t.statusErr = 0 → (∀ a, t.outLen.toNat ≤ a → t.dst.read a = s.dst.read a) ∧
      (∀ a, a < t.outLen.toNat → (t.dst.read a).isSome = true))

/-- 30_encoding.md R72, 20_memory.md R59: PAY and ENC read no SRC word at or beyond W * H, RED and HDR read none, and what DST held
before has no influence on any command's result. For PAY and ENC the host wrote every word of the image, the premise of
70_reset_and_hazards.md R236. -/
def Obligations.EngineReadsNoWordOutsideTheImage : Prop :=
  ∀ (i : Instr) (s s' t : State), s.platform.wf → s' = { s with src := s'.src, dst := s'.dst } →
    (Safety.readsSource i = true → Safety.imageWritten s ∧
      ∀ j, j < imageW s * imageH s → s'.src.read j = s.src.read j) → exec i s = .next t →
    ∃ t', exec i s' = .next t' ∧ t'.statusErr = t.statusErr ∧ t'.statusSticky = t.statusSticky ∧
      t'.pixOut = t.pixOut ∧ t'.outLen = t.outLen ∧
      (i ≠ .red → t.statusErr = 0 → ∀ a, a < t.outLen.toNat → t'.dst.read a = t.dst.read a)

/-- 60_exceptions.md R204: with SRC_PIXELS at most 2^30, LenOK holds whenever DimOK does. -/
def Obligations.LengthCheckFollowsFromDimensionCheck : Prop :=
  ∀ srcPixels W H : Nat, srcPixels ≤ 2 ^ 30 → DimOK srcPixels W H → LenOK W H

/-! ### Host accesses -/

/-- 20_memory.md R50, R51: on a well-formed platform an address in a window belongs to that window alone, at its offset; any
other address belongs to none. -/
def Obligations.WindowsPartitionTheirAddresses : Prop :=
  ∀ (p : Platform) (a : Nat), p.wf →
    (∀ sp, spaceBase p sp ≤ a → a < spaceBase p sp + spaceSize p sp → locate p a = some (sp, a - spaceBase p sp)) ∧
    ((∀ sp, a < spaceBase p sp ∨ spaceBase p sp + spaceSize p sp ≤ a) → locate p a = none)

/-- 20_memory.md R54: exactly these accesses are accepted. -/
def Obligations.AcceptedWidthsAndAlignments : Prop :=
  ∀ (p : Platform) (off width : Nat),
    (accepts p .reg off width ↔ width = 4 ∧ off % 4 = 0 ∧ off + 4 ≤ 32) ∧
    (accepts p .src off width ↔ width = 4 ∧ off % 4 = 0 ∧ off + 4 ≤ 4 * p.srcPixels) ∧
    (accepts p .dst off width ↔ (width = 1 ∨ width = 2 ∧ off % 2 = 0 ∨ width = 4 ∧ off % 4 = 0) ∧
      off + width ≤ p.dstSize)

/-- 20_memory.md R55: an access its window does not accept is a bus error: it changes no state of the block and is recorded; no step,
not even a reset, clears a recorded fault; and a run that records one is not successful. The model's choices: the run goes on after
it (log entry 7), and an access that lies in no window, placed by its first byte, is a bus error too (log entry 9, after O12 of
93_implementation_defined.md), also while a command is awaited (log entry 23). -/
def Obligations.BusErrorIsRecordedForGood : Prop :=
  (∀ (s : State) (a : Access) (es : List HostEvent), s.host = .access a :: es →
    (locate s.platform a.address = none ∨
      ∃ sp off, s.awaiting = false ∧ locate s.platform a.address = some (sp, off) ∧ ¬ accepts s.platform sp off a.width) →
    ∃ r, step s = .next { s with
      host := es, response := r, hostFaults := s.hostFaults ++ [.busError a.address a.width] }) ∧
  (∀ s t : State, step s = .next t → ∃ fs, t.hostFaults = s.hostFaults ++ fs) ∧
  (∀ s : State, s.hostFaults ≠ [] → ¬ Safety.successful (.next s))

/-- 10_state.md R24, R25; 20_memory.md R57: a host write of a register other than CMD stores all 32 bits of WIDTH and HEIGHT,
bits 23:0 of PIX_IN, and is ignored by STATUS, PIX_OUT, OUT_LEN and 0x1C. -/
def Obligations.RegisterWriteStoresOrIsIgnored : Prop :=
  ∀ (s : State) (es : List HostEvent) (r : Reg) (v : Word),
    s.host = .access (.write (s.platform.regBase + regOffset r) 4 v) :: es → s.awaiting = false → r ≠ .cmd →
    ∃ a, step s = .next { s with
      host := es, response := a,
      width := if r = .width then v else s.width,
      height := if r = .height then v else s.height,
      pixIn := if r = .pixIn then v.extractLsb' 0 24 else s.pixIn }

/-- 10_state.md R21, R22, R25, R26; 20_memory.md R57: what a host read of each register returns, and that it changes no state of the
block. A read of STATUS may stand while a command is awaited, and does not end the waiting (log entry 25). -/
def Obligations.RegisterReadReturnsItsValue : Prop :=
  ∀ (s : State) (es : List HostEvent) (r : Reg),
    s.host = .access (.read (s.platform.regBase + regOffset r) 4) :: es → s.awaiting = false ∨ r = .status →
    ∃ v : Word, step s = .next { s with host := es, response := some v } ∧
      (r = .cmd → v = 0) ∧ (r = .status → v = statusWord s) ∧ (r = .width → v = s.width) ∧
      (r = .height → v = s.height) ∧ (r = .pixIn → v.toNat = s.pixIn.toNat) ∧
      (r = .pixOut → v.toNat = s.pixOut.toNat) ∧ (r = .outLen → v = s.outLen) ∧ (r = .reserved → v = 0)

/-- 10_state.md R31, on a well-formed platform with no command awaited: a host write to SRC word i, whatever follows it, stores bits
23:0 and changes no other word and nothing else of the block; a host read of word i answers, with the stored 24 bits
zero-extended where the word was written, and changes nothing but the model's own fields; and so a write and then a read give
the word's low 24 bits. A word never written reads as some 24-bit value (R32). -/
def Obligations.SrcWriteThenReadReturnsLowBits : Prop :=
  (∀ (s : State) (es : List HostEvent) (i : Nat) (v : Word), s.platform.wf → s.awaiting = false →
    i < s.platform.srcPixels → s.host = .access (.write (s.platform.srcBase + 4 * i) 4 v) :: es →
    ∃ t, step s = .next t ∧ t = { s with host := es, response := t.response, src := t.src } ∧
      t.src.read i = some (v.extractLsb' 0 24) ∧ (∀ j, j ≠ i → t.src.read j = s.src.read j)) ∧
  (∀ (s : State) (es : List HostEvent) (i : Nat), s.platform.wf → s.awaiting = false → i < s.platform.srcPixels →
    s.host = .access (.read (s.platform.srcBase + 4 * i) 4) :: es →
    ∃ (v : Word) (t : State), step s = .next t ∧
      t = { s with host := es, response := some v, draws := t.draws } ∧ v.toNat < 2 ^ 24 ∧
      ∀ p, s.src.read i = some p → v.toNat = p.toNat) ∧
  (∀ (s : State) (es : List HostEvent) (i : Nat) (v : Word), s.platform.wf → s.awaiting = false →
    i < s.platform.srcPixels →
    s.host = .access (.write (s.platform.srcBase + 4 * i) 4 v) ::
      .access (.read (s.platform.srcBase + 4 * i) 4) :: es →
    ∃ t u, step s = .next t ∧ step t = .next u ∧
      u = { t with host := es, response := some (v &&& 0x00FFFFFF), draws := u.draws })

/-- 20_memory.md R53: a host write of 1, 2 or 4 bytes to DST is little-endian, and changes no other byte of DST and nothing else. -/
def Obligations.DstWriteStoresLittleEndianBytes : Prop :=
  ∀ (s : State) (es : List HostEvent) (a n : Nat) (v : Word), s.platform.wf → s.awaiting = false →
    accepts s.platform .dst a n → s.host = .access (.write (s.platform.dstBase + a) n v) :: es →
    ∃ t, step s = .next t ∧ t = { s with host := es, response := t.response, dst := t.dst } ∧
      Safety.holdsField t.dst a n v.toNat ∧ (∀ b, b < a ∨ a + n ≤ b → t.dst.read b = s.dst.read b)

/-- 20_memory.md R53, R66: host reads of DST at every accepted width see one byte array, little-endian, and change nothing but the
model's own fields. An unspecified byte reads as some value (10_state.md R34). -/
def Obligations.DstReadsOfAnyWidthSeeOneByteArray : Prop :=
  ∀ (s : State) (es : List HostEvent) (a n : Nat), s.platform.wf → s.awaiting = false →
    accepts s.platform .dst a n → s.host = .access (.read (s.platform.dstBase + a) n) :: es →
    ∃ (v : Word) (t : State), step s = .next t ∧
      t = { s with host := es, response := some v, draws := t.draws } ∧ v.toNat < 256 ^ n ∧
      ∀ k b, k < n → s.dst.read (a + k) = some b → v.extractLsb' (8 * k) 8 = b

/-- The model's choice (log entry 4) for 10_state.md R32 and R34, by which two reads of a never-written SRC word or DST byte
need not agree: every host read of SRC or DST, and every successful DST-writing command, draws anew, and what a read of
unspecified contents returns is the free value of its own draw. -/
def Obligations.ReadsOfUnspecifiedContentsDrawAnew : Prop :=
  (∀ (s : State) (es : List HostEvent) (i : Nat), s.platform.wf → s.awaiting = false → i < s.platform.srcPixels →
    s.src.read i = none →
    s.host = .access (.read (s.platform.srcBase + 4 * i) 4) :: .access (.read (s.platform.srcBase + 4 * i) 4) :: es →
    ∃ t u, step s = .next t ∧ step t = .next u ∧ t.draws = s.draws + 1 ∧ u.draws = s.draws + 2 ∧
      t.response = some ((Config.freePixel s.draws i).setWidth 32) ∧
      u.response = some ((Config.freePixel (s.draws + 1) i).setWidth 32)) ∧
  (∀ (s : State) (es : List HostEvent) (a : Nat), s.platform.wf → s.awaiting = false → a < s.platform.dstSize →
    s.dst.read a = none →
    s.host = .access (.read (s.platform.dstBase + a) 1) :: .access (.read (s.platform.dstBase + a) 1) :: es →
    ∃ t u, step s = .next t ∧ step t = .next u ∧ t.draws = s.draws + 1 ∧ u.draws = s.draws + 2 ∧
      t.response = some ((Config.freeByte s.draws a).setWidth 32) ∧
      u.response = some ((Config.freeByte (s.draws + 1) a).setWidth 32)) ∧
  (∀ (i : Instr) (s t : State), exec i s = .next t → i ≠ .red → t.statusErr = 0 → t.draws = s.draws + 1)

/-! ### The host protocol -/

/-- 30_encoding.md R82: `wait` answers a read of STATUS, which shows BUSY = 0, ends the waiting and changes nothing of the block;
`cmd! OP` is the write of the command's word and such a `wait`, and between them stands the command's whole execution. The
host's fields are the model's (log entries 2, 12, 14, 25). -/
def Obligations.CommandThenWaitEndsTheCommand : Prop :=
  (∀ (s : State) (es : List HostEvent), s.host = .wait :: es →
    step s = .next { s with host := es, awaiting := false, response := some (statusWord s) } ∧
      busyBit (statusWord s) = false) ∧
  (∀ (s : State) (es : List HostEvent) (i : Instr), s.awaiting = false →
    s.host = programEvents s.platform [.cmdWait i] ++ es →
    ∃ t u, step s = .next t ∧ exec i { s with host := s.host.tail, awaiting := true, response := none } = .next t ∧
      step t = .next u ∧ u = { t with host := es, awaiting := false, response := some (statusWord t) })

/-- 70_reset_and_hazards.md R240, 60_exceptions.md R211: between a command and its wait, an access to the block that is not a read of
STATUS is recorded as a protocol violation, and the access may or may not take effect: WIDTH, HEIGHT, PIX_IN and each SRC word are
as before or hold what the access writes there. The model's choices: the host and the block go on, with STATUS, PIX_OUT, OUT_LEN
and DST left open (log entry 8), and an access that breaks 20_memory.md R54 too, such as an 8-bit read of STATUS, is recorded as
both host faults (log entry 22). -/
def Obligations.AccessBeforeWaitIsProtocolViolation : Prop :=
  ∀ (s : State) (a : Access) (es : List HostEvent) (sp : Space) (off : Nat),
    s.host = .access a :: es → s.awaiting = true → locate s.platform a.address = some (sp, off) →
    ¬ (sp = .reg ∧ off = 0x04 ∧ a = .read a.address 4) →
    ∃ t, step s = .next t ∧ t.host = es ∧ t.awaiting = true ∧ t.platform = s.platform ∧
      t.hostFaults = s.hostFaults ++ .protocolViolation a ::
        (if accepts s.platform sp off a.width then [] else [.busError a.address a.width]) ∧
      (t.width = s.width ∨ sp = .reg ∧ off = 0x08 ∧ a = .write a.address 4 t.width) ∧
      (t.height = s.height ∨ sp = .reg ∧ off = 0x0C ∧ a = .write a.address 4 t.height) ∧
      (t.pixIn = s.pixIn ∨ ∃ v, sp = .reg ∧ off = 0x10 ∧ a = .write a.address 4 v ∧ t.pixIn = v.extractLsb' 0 24) ∧
      (∀ j, t.src.read j = s.src.read j ∨
        ∃ v, sp = .src ∧ off = 4 * j ∧ a = .write a.address 4 v ∧ t.src.read j = some (v.extractLsb' 0 24))

/-- 30_encoding.md R82, 70_reset_and_hazards.md R240, R244: the check of a host program by its statements, in which `wait` and a lone
`rd STATUS` differ, is the check of the events it runs as, for statements that name words and bytes the platform has. -/
def Obligations.StatementCheckIsEventCheck : Prop :=
  ∀ (p : Platform) (awaiting : Bool) (prog : List Stmt), p.wf → (∀ st, st ∈ prog → st.inRange p = true) →
    hostConforms p awaiting (programEvents p prog) = programConforms awaiting prog

/-- 70_reset_and_hazards.md R240, R244: a program the model takes meets no protocol violation at its next step, and what is left of it
is a program the model takes. -/
def Obligations.ConformingProgramStaysConforming : Prop :=
  ∀ s t : State, Safety.conforming s → step s = .next t →
    Safety.conforming t ∧ ∃ fs, t.hostFaults = s.hostFaults ++ fs ∧ ∀ a, HostFault.protocolViolation a ∉ fs

/-- 70_reset_and_hazards.md R240, 60_exceptions.md R211: a program the model refuses, where it is run all the same, records a protocol
violation, and at no step has it ended as a successful run. The model's choices: that the check passes over accesses outside
the windows (log entry 23), that a violating run goes on (log entry 8), and that a lone `rd STATUS` is no `wait` (log entry 25). -/
def Obligations.RefusedProgramViolatesAndNeverSucceeds : Prop :=
  ∀ s : State, ¬ Safety.conforming s →
    (∃ (n : Nat) (a : Access) (t : State) (fs : List HostFault),
      Sys2Proof.core.run n s = .next t ∧ t.hostFaults = s.hostFaults ++ fs ∧ .protocolViolation a ∈ fs) ∧
    (∀ n, ¬ Safety.successful (Sys2Proof.core.run n s))

/-- 70_reset_and_hazards.md R246, R247; 93_implementation_defined.md part 1: no behaviour is `stuck`. Every step answers a next state,
and every host program, whatever its accesses are and whether or not it keeps the protocol, runs to its end, one step an event. The
model's choices: a step is taken with no event pending (log entry 3), and the run goes on after a bus error (log entry 7), after an
access outside the windows (log entry 9) and after a protocol violation (log entry 8), where R240 has a model refuse the program
beforehand. -/
def Obligations.EveryProgramRunsToItsEnd : Prop :=
  (∀ s : State, ∃ t, step s = .next t) ∧
  (∀ s : State, ∃ t, Sys2Proof.core.run s.host.length s = .next t ∧ t.host = [])

/-- 70_reset_and_hazards.md R246, R247: a program the model takes, all of whose accesses their windows accept, runs to its end, one
step an event, and records no host fault; the run is successful when it ends with no command in progress. -/
def Obligations.ConformingProgramRunsToItsEnd : Prop :=
  ∀ s : State, Safety.conforming s → s.hostFaults = [] →
    (∀ a, .access a ∈ s.host →
      ∃ sp off, locate s.platform a.address = some (sp, off) ∧ accepts s.platform sp off a.width) →
    ∃ t, Sys2Proof.core.run s.host.length s = .next t ∧ t.host = [] ∧ t.hostFaults = [] ∧
      (Safety.successful (Sys2Proof.core.run s.host.length s) ↔ t.awaiting = false)

/-- 20_memory.md R51, R55; O12 of 93_implementation_defined.md: an access outside the three windows is a bus error, which changes no
state of the block and is recorded. The model's choices: an access is placed by its first byte (log entry 9), so that one which only
runs into a window is such an access too; it is none to the block while a command is awaited (log entry 23), and it answers
nothing (log entry 14). -/
def Obligations.AccessOutsideTheWindowsIsBusError : Prop :=
  ∀ (s : State) (a : Access) (es : List HostEvent), s.host = .access a :: es →
    (∀ sp, a.address < spaceBase s.platform sp ∨ spaceBase s.platform sp + spaceSize s.platform sp ≤ a.address) →
    step s = .next { s with
      host := es, response := none, hostFaults := s.hostFaults ++ [.busError a.address a.width] }

/-- 70_reset_and_hazards.md R234: with no event pending the block is idle. That a step is then taken, and changes nothing, is the
model's choice (log entry 3). -/
def Obligations.IdleBlockStaysAsItIs : Prop :=
  ∀ s : State, s.host = [] → step s = .next s
end

