-- ==== Sys2Proof/Laws/Bytes.lean ====
section
/-! SUPPORT. Byte sequences: their lengths, and indexing into blocks of equal length. -/

namespace Sys2Proof.Machine

@[simp] theorem le16_length (v : BitVec 16) : (le16 v).length = 2 := rfl
@[simp] theorem le32_length (v : Word) : (le32 v).length = 4 := rfl
@[simp] theorem ser565_length (v : P565) : (ser565 v).length = 2 := rfl
@[simp] theorem bmpHeader_length (W H : Nat) : (bmpHeader W H).length = 70 := by
  simp [bmpHeader, asciiBM]
@[simp] theorem tgaHeader_length (W H : Nat) : (tgaHeader W H).length = 18 := by
  simp [tgaHeader, zeros]

theorem leBytes_length (n : Nat) (v : Word) (h : n ≤ 4) : (leBytes n v).length = n := by
  simp [leBytes, h]

/-- Blocks of one length, one after another. -/
theorem flatMap_range_length {α : Type} (f : Nat → List α) (L n : Nat) (h : ∀ k, (f k).length = L) :
    ((List.range n).flatMap f).length = n * L := by
  induction n with
  | zero => simp
  | succ n ih => simp [List.range_succ, List.flatMap_append, ih, h, Nat.succ_mul]

/-- Element `j` of block `k`. -/
theorem flatMap_range_getElem? {α : Type} (f : Nat → List α) (L n : Nat) (h : ∀ k, (f k).length = L)
    (k j : Nat) (hk : k < n) (hj : j < L) : ((List.range n).flatMap f)[k * L + j]? = (f k)[j]? := by
  induction n with
  | zero => omega
  | succ n ih =>
    rw [List.range_succ, List.flatMap_append]
    have hlen := flatMap_range_length f L n h
    rcases Nat.lt_or_eq_of_le (Nat.lt_succ_iff.1 hk) with hk' | rfl
    · have : k * L + j < n * L := by
        calc k * L + j < k * L + L := by omega
          _ = (k + 1) * L := by rw [Nat.add_mul, Nat.one_mul]
          _ ≤ n * L := Nat.mul_le_mul_right L hk'
      rw [List.getElem?_append_left (by omega), ih hk']
    · rw [List.getElem?_append_right (by omega), hlen]
      simp

theorem rowBytes_length (px : Nat → Word) (W y : Nat) : (rowBytes px W y).length = 2 * W := by
  rw [rowBytes, flatMap_range_length _ 2 W fun _ => rfl, Nat.mul_comm]

/-- The two bytes of column `x` of a row. -/
theorem rowBytes_getElem? (px : Nat → Word) (W y x j : Nat) (hx : x < W) (hj : j < 2) :
    (rowBytes px W y)[2 * x + j]? = (ser565 (reducePix (px (y * W + x))))[j]? := by
  rw [rowBytes, Nat.mul_comm 2 x]
  exact flatMap_range_getElem? (fun x => ser565 (reducePix (px (y * W + x)))) 2 W (fun _ => rfl) x j hx hj

end Sys2Proof.Machine
end

