-- ==== Sys2Proof/Laws/State.lean ====
section
/-! SUPPORT. For every named update of the state, what it leaves in each field (true by unfolding the update). -/

namespace Sys2Proof.Machine

variable (s : State)

/-! ### nextDraw -/

@[simp] theorem nextDraw_platform : (nextDraw s).platform = s.platform := rfl
@[simp] theorem nextDraw_statusErr : (nextDraw s).statusErr = s.statusErr := rfl
@[simp] theorem nextDraw_statusSticky : (nextDraw s).statusSticky = s.statusSticky := rfl
@[simp] theorem nextDraw_width : (nextDraw s).width = s.width := rfl
@[simp] theorem nextDraw_height : (nextDraw s).height = s.height := rfl
@[simp] theorem nextDraw_pixIn : (nextDraw s).pixIn = s.pixIn := rfl
@[simp] theorem nextDraw_pixOut : (nextDraw s).pixOut = s.pixOut := rfl
@[simp] theorem nextDraw_outLen : (nextDraw s).outLen = s.outLen := rfl
@[simp] theorem nextDraw_src : (nextDraw s).src = s.src := rfl
@[simp] theorem nextDraw_dst : (nextDraw s).dst = s.dst := rfl
@[simp] theorem nextDraw_hostFaults : (nextDraw s).hostFaults = s.hostFaults := rfl
@[simp] theorem nextDraw_awaiting : (nextDraw s).awaiting = s.awaiting := rfl
@[simp] theorem nextDraw_host : (nextDraw s).host = s.host := rfl
@[simp] theorem nextDraw_response : (nextDraw s).response = s.response := rfl
@[simp] theorem nextDraw_draws : (nextDraw s).draws = s.draws + 1 := rfl

/-! ### setPixOut -/

@[simp] theorem setPixOut_platform (v : P565) : (setPixOut v s).platform = s.platform := rfl
@[simp] theorem setPixOut_statusErr (v : P565) : (setPixOut v s).statusErr = s.statusErr := rfl
@[simp] theorem setPixOut_statusSticky (v : P565) : (setPixOut v s).statusSticky = s.statusSticky := rfl
@[simp] theorem setPixOut_width (v : P565) : (setPixOut v s).width = s.width := rfl
@[simp] theorem setPixOut_height (v : P565) : (setPixOut v s).height = s.height := rfl
@[simp] theorem setPixOut_pixIn (v : P565) : (setPixOut v s).pixIn = s.pixIn := rfl
@[simp] theorem setPixOut_pixOut (v : P565) : (setPixOut v s).pixOut = v := rfl
@[simp] theorem setPixOut_outLen (v : P565) : (setPixOut v s).outLen = s.outLen := rfl
@[simp] theorem setPixOut_src (v : P565) : (setPixOut v s).src = s.src := rfl
@[simp] theorem setPixOut_dst (v : P565) : (setPixOut v s).dst = s.dst := rfl
@[simp] theorem setPixOut_hostFaults (v : P565) : (setPixOut v s).hostFaults = s.hostFaults := rfl
@[simp] theorem setPixOut_awaiting (v : P565) : (setPixOut v s).awaiting = s.awaiting := rfl
@[simp] theorem setPixOut_host (v : P565) : (setPixOut v s).host = s.host := rfl
@[simp] theorem setPixOut_response (v : P565) : (setPixOut v s).response = s.response := rfl
@[simp] theorem setPixOut_draws (v : P565) : (setPixOut v s).draws = s.draws := rfl

/-! ### setOutLen -/

@[simp] theorem setOutLen_platform (n : Nat) : (setOutLen n s).platform = s.platform := rfl
@[simp] theorem setOutLen_statusErr (n : Nat) : (setOutLen n s).statusErr = s.statusErr := rfl
@[simp] theorem setOutLen_statusSticky (n : Nat) : (setOutLen n s).statusSticky = s.statusSticky := rfl
@[simp] theorem setOutLen_width (n : Nat) : (setOutLen n s).width = s.width := rfl
@[simp] theorem setOutLen_height (n : Nat) : (setOutLen n s).height = s.height := rfl
@[simp] theorem setOutLen_pixIn (n : Nat) : (setOutLen n s).pixIn = s.pixIn := rfl
@[simp] theorem setOutLen_pixOut (n : Nat) : (setOutLen n s).pixOut = s.pixOut := rfl
@[simp] theorem setOutLen_outLen (n : Nat) : (setOutLen n s).outLen = BitVec.ofNat 32 n := rfl
@[simp] theorem setOutLen_src (n : Nat) : (setOutLen n s).src = s.src := rfl
@[simp] theorem setOutLen_dst (n : Nat) : (setOutLen n s).dst = s.dst := rfl
@[simp] theorem setOutLen_hostFaults (n : Nat) : (setOutLen n s).hostFaults = s.hostFaults := rfl
@[simp] theorem setOutLen_awaiting (n : Nat) : (setOutLen n s).awaiting = s.awaiting := rfl
@[simp] theorem setOutLen_host (n : Nat) : (setOutLen n s).host = s.host := rfl
@[simp] theorem setOutLen_response (n : Nat) : (setOutLen n s).response = s.response := rfl
@[simp] theorem setOutLen_draws (n : Nat) : (setOutLen n s).draws = s.draws := rfl

/-! ### dstWrite -/

@[simp] theorem dstWrite_platform (a : Nat) (bytes : List Byte) : (dstWrite a bytes s).platform = s.platform := rfl
@[simp] theorem dstWrite_statusErr (a : Nat) (bytes : List Byte) : (dstWrite a bytes s).statusErr = s.statusErr := rfl
@[simp] theorem dstWrite_statusSticky (a : Nat) (bytes : List Byte) : (dstWrite a bytes s).statusSticky = s.statusSticky := rfl
@[simp] theorem dstWrite_width (a : Nat) (bytes : List Byte) : (dstWrite a bytes s).width = s.width := rfl
@[simp] theorem dstWrite_height (a : Nat) (bytes : List Byte) : (dstWrite a bytes s).height = s.height := rfl
@[simp] theorem dstWrite_pixIn (a : Nat) (bytes : List Byte) : (dstWrite a bytes s).pixIn = s.pixIn := rfl
@[simp] theorem dstWrite_pixOut (a : Nat) (bytes : List Byte) : (dstWrite a bytes s).pixOut = s.pixOut := rfl
@[simp] theorem dstWrite_outLen (a : Nat) (bytes : List Byte) : (dstWrite a bytes s).outLen = s.outLen := rfl
@[simp] theorem dstWrite_src (a : Nat) (bytes : List Byte) : (dstWrite a bytes s).src = s.src := rfl
@[simp] theorem dstWrite_dst (a : Nat) (bytes : List Byte) : (dstWrite a bytes s).dst = s.dst.writeFrom a bytes := rfl
@[simp] theorem dstWrite_hostFaults (a : Nat) (bytes : List Byte) : (dstWrite a bytes s).hostFaults = s.hostFaults := rfl
@[simp] theorem dstWrite_awaiting (a : Nat) (bytes : List Byte) : (dstWrite a bytes s).awaiting = s.awaiting := rfl
@[simp] theorem dstWrite_host (a : Nat) (bytes : List Byte) : (dstWrite a bytes s).host = s.host := rfl
@[simp] theorem dstWrite_response (a : Nat) (bytes : List Byte) : (dstWrite a bytes s).response = s.response := rfl
@[simp] theorem dstWrite_draws (a : Nat) (bytes : List Byte) : (dstWrite a bytes s).draws = s.draws := rfl

/-! ### srcWrite -/

@[simp] theorem srcWrite_platform (i : Nat) (v : Word) : (srcWrite i v s).platform = s.platform := rfl
@[simp] theorem srcWrite_statusErr (i : Nat) (v : Word) : (srcWrite i v s).statusErr = s.statusErr := rfl
@[simp] theorem srcWrite_statusSticky (i : Nat) (v : Word) : (srcWrite i v s).statusSticky = s.statusSticky := rfl
@[simp] theorem srcWrite_width (i : Nat) (v : Word) : (srcWrite i v s).width = s.width := rfl
@[simp] theorem srcWrite_height (i : Nat) (v : Word) : (srcWrite i v s).height = s.height := rfl
@[simp] theorem srcWrite_pixIn (i : Nat) (v : Word) : (srcWrite i v s).pixIn = s.pixIn := rfl
@[simp] theorem srcWrite_pixOut (i : Nat) (v : Word) : (srcWrite i v s).pixOut = s.pixOut := rfl
@[simp] theorem srcWrite_outLen (i : Nat) (v : Word) : (srcWrite i v s).outLen = s.outLen := rfl
@[simp] theorem srcWrite_src (i : Nat) (v : Word) : (srcWrite i v s).src = s.src.writeFrom i [v.setWidth 24] := rfl
@[simp] theorem srcWrite_dst (i : Nat) (v : Word) : (srcWrite i v s).dst = s.dst := rfl
@[simp] theorem srcWrite_hostFaults (i : Nat) (v : Word) : (srcWrite i v s).hostFaults = s.hostFaults := rfl
@[simp] theorem srcWrite_awaiting (i : Nat) (v : Word) : (srcWrite i v s).awaiting = s.awaiting := rfl
@[simp] theorem srcWrite_host (i : Nat) (v : Word) : (srcWrite i v s).host = s.host := rfl
@[simp] theorem srcWrite_response (i : Nat) (v : Word) : (srcWrite i v s).response = s.response := rfl
@[simp] theorem srcWrite_draws (i : Nat) (v : Word) : (srcWrite i v s).draws = s.draws := rfl

/-! ### raiseErr -/

@[simp] theorem raiseErr_platform (e : ErrCode) : (raiseErr e s).platform = s.platform := rfl
@[simp] theorem raiseErr_statusErr (e : ErrCode) : (raiseErr e s).statusErr = errValue e := rfl
@[simp] theorem raiseErr_statusSticky (e : ErrCode) : (raiseErr e s).statusSticky = true := rfl
@[simp] theorem raiseErr_width (e : ErrCode) : (raiseErr e s).width = s.width := rfl
@[simp] theorem raiseErr_height (e : ErrCode) : (raiseErr e s).height = s.height := rfl
@[simp] theorem raiseErr_pixIn (e : ErrCode) : (raiseErr e s).pixIn = s.pixIn := rfl
@[simp] theorem raiseErr_pixOut (e : ErrCode) : (raiseErr e s).pixOut = s.pixOut := rfl
@[simp] theorem raiseErr_outLen (e : ErrCode) : (raiseErr e s).outLen = s.outLen := rfl
@[simp] theorem raiseErr_src (e : ErrCode) : (raiseErr e s).src = s.src := rfl
@[simp] theorem raiseErr_dst (e : ErrCode) : (raiseErr e s).dst = s.dst := rfl
@[simp] theorem raiseErr_hostFaults (e : ErrCode) : (raiseErr e s).hostFaults = s.hostFaults := rfl
@[simp] theorem raiseErr_awaiting (e : ErrCode) : (raiseErr e s).awaiting = s.awaiting := rfl
@[simp] theorem raiseErr_host (e : ErrCode) : (raiseErr e s).host = s.host := rfl
@[simp] theorem raiseErr_response (e : ErrCode) : (raiseErr e s).response = s.response := rfl
@[simp] theorem raiseErr_draws (e : ErrCode) : (raiseErr e s).draws = s.draws := rfl

/-! ### succeed -/

@[simp] theorem succeed_platform : (succeed s).platform = s.platform := rfl
@[simp] theorem succeed_statusErr : (succeed s).statusErr = 0 := rfl
@[simp] theorem succeed_statusSticky : (succeed s).statusSticky = s.statusSticky := rfl
@[simp] theorem succeed_width : (succeed s).width = s.width := rfl
@[simp] theorem succeed_height : (succeed s).height = s.height := rfl
@[simp] theorem succeed_pixIn : (succeed s).pixIn = s.pixIn := rfl
@[simp] theorem succeed_pixOut : (succeed s).pixOut = s.pixOut := rfl
@[simp] theorem succeed_outLen : (succeed s).outLen = s.outLen := rfl
@[simp] theorem succeed_src : (succeed s).src = s.src := rfl
@[simp] theorem succeed_dst : (succeed s).dst = s.dst := rfl
@[simp] theorem succeed_hostFaults : (succeed s).hostFaults = s.hostFaults := rfl
@[simp] theorem succeed_awaiting : (succeed s).awaiting = s.awaiting := rfl
@[simp] theorem succeed_host : (succeed s).host = s.host := rfl
@[simp] theorem succeed_response : (succeed s).response = s.response := rfl
@[simp] theorem succeed_draws : (succeed s).draws = s.draws := rfl

/-! ### respond -/

@[simp] theorem respond_platform (r : Option Word) : (respond r s).platform = s.platform := rfl
@[simp] theorem respond_statusErr (r : Option Word) : (respond r s).statusErr = s.statusErr := rfl
@[simp] theorem respond_statusSticky (r : Option Word) : (respond r s).statusSticky = s.statusSticky := rfl
@[simp] theorem respond_width (r : Option Word) : (respond r s).width = s.width := rfl
@[simp] theorem respond_height (r : Option Word) : (respond r s).height = s.height := rfl
@[simp] theorem respond_pixIn (r : Option Word) : (respond r s).pixIn = s.pixIn := rfl
@[simp] theorem respond_pixOut (r : Option Word) : (respond r s).pixOut = s.pixOut := rfl
@[simp] theorem respond_outLen (r : Option Word) : (respond r s).outLen = s.outLen := rfl
@[simp] theorem respond_src (r : Option Word) : (respond r s).src = s.src := rfl
@[simp] theorem respond_dst (r : Option Word) : (respond r s).dst = s.dst := rfl
@[simp] theorem respond_hostFaults (r : Option Word) : (respond r s).hostFaults = s.hostFaults := rfl
@[simp] theorem respond_awaiting (r : Option Word) : (respond r s).awaiting = s.awaiting := rfl
@[simp] theorem respond_host (r : Option Word) : (respond r s).host = s.host := rfl
@[simp] theorem respond_response (r : Option Word) : (respond r s).response = r := rfl
@[simp] theorem respond_draws (r : Option Word) : (respond r s).draws = s.draws := rfl

/-! ### recordBusError -/

@[simp] theorem recordBusError_platform (a : Access) : (recordBusError a s).platform = s.platform := rfl
@[simp] theorem recordBusError_statusErr (a : Access) : (recordBusError a s).statusErr = s.statusErr := rfl
@[simp] theorem recordBusError_statusSticky (a : Access) : (recordBusError a s).statusSticky = s.statusSticky := rfl
@[simp] theorem recordBusError_width (a : Access) : (recordBusError a s).width = s.width := rfl
@[simp] theorem recordBusError_height (a : Access) : (recordBusError a s).height = s.height := rfl
@[simp] theorem recordBusError_pixIn (a : Access) : (recordBusError a s).pixIn = s.pixIn := rfl
@[simp] theorem recordBusError_pixOut (a : Access) : (recordBusError a s).pixOut = s.pixOut := rfl
@[simp] theorem recordBusError_outLen (a : Access) : (recordBusError a s).outLen = s.outLen := rfl
@[simp] theorem recordBusError_src (a : Access) : (recordBusError a s).src = s.src := rfl
@[simp] theorem recordBusError_dst (a : Access) : (recordBusError a s).dst = s.dst := rfl
@[simp] theorem recordBusError_hostFaults (a : Access) : (recordBusError a s).hostFaults = s.hostFaults ++ [.busError a.address a.width] := rfl
@[simp] theorem recordBusError_awaiting (a : Access) : (recordBusError a s).awaiting = s.awaiting := rfl
@[simp] theorem recordBusError_host (a : Access) : (recordBusError a s).host = s.host := rfl
@[simp] theorem recordBusError_response (a : Access) : (recordBusError a s).response = none := rfl
@[simp] theorem recordBusError_draws (a : Access) : (recordBusError a s).draws = s.draws := rfl

/-! ### recordViolation -/

@[simp] theorem recordViolation_platform (a : Access) : (recordViolation a s).platform = s.platform := rfl
@[simp] theorem recordViolation_statusErr (a : Access) : (recordViolation a s).statusErr = s.statusErr := rfl
@[simp] theorem recordViolation_statusSticky (a : Access) : (recordViolation a s).statusSticky = s.statusSticky := rfl
@[simp] theorem recordViolation_width (a : Access) : (recordViolation a s).width = s.width := rfl
@[simp] theorem recordViolation_height (a : Access) : (recordViolation a s).height = s.height := rfl
@[simp] theorem recordViolation_pixIn (a : Access) : (recordViolation a s).pixIn = s.pixIn := rfl
@[simp] theorem recordViolation_pixOut (a : Access) : (recordViolation a s).pixOut = s.pixOut := rfl
@[simp] theorem recordViolation_outLen (a : Access) : (recordViolation a s).outLen = s.outLen := rfl
@[simp] theorem recordViolation_src (a : Access) : (recordViolation a s).src = s.src := rfl
@[simp] theorem recordViolation_dst (a : Access) : (recordViolation a s).dst = s.dst := rfl
@[simp] theorem recordViolation_hostFaults (a : Access) : (recordViolation a s).hostFaults = s.hostFaults ++ [.protocolViolation a] := rfl
@[simp] theorem recordViolation_awaiting (a : Access) : (recordViolation a s).awaiting = s.awaiting := rfl
@[simp] theorem recordViolation_host (a : Access) : (recordViolation a s).host = s.host := rfl
@[simp] theorem recordViolation_response (a : Access) : (recordViolation a s).response = s.response := rfl
@[simp] theorem recordViolation_draws (a : Access) : (recordViolation a s).draws = s.draws := rfl

/-! ### unpredictResults -/

@[simp] theorem unpredictResults_platform : (unpredictResults s).platform = s.platform := rfl
@[simp] theorem unpredictResults_statusErr : (unpredictResults s).statusErr = (Config.freeResults s.draws).err.setWidth 4 := rfl
@[simp] theorem unpredictResults_statusSticky : (unpredictResults s).statusSticky = 
    (s.statusSticky || (Config.freeResults s.draws).sticky || decide ((Config.freeResults s.draws).err ≠ 0)) := rfl
@[simp] theorem unpredictResults_width : (unpredictResults s).width = s.width := rfl
@[simp] theorem unpredictResults_height : (unpredictResults s).height = s.height := rfl
@[simp] theorem unpredictResults_pixIn : (unpredictResults s).pixIn = s.pixIn := rfl
@[simp] theorem unpredictResults_pixOut : (unpredictResults s).pixOut = (Config.freeResults s.draws).pixOut := rfl
@[simp] theorem unpredictResults_outLen : (unpredictResults s).outLen = 
    BitVec.ofNat 32 ((Config.freeResults s.draws).outLen % (s.platform.dstSize + 1)) := rfl
@[simp] theorem unpredictResults_src : (unpredictResults s).src = s.src := rfl
@[simp] theorem unpredictResults_dst : (unpredictResults s).dst = [] := rfl
@[simp] theorem unpredictResults_hostFaults : (unpredictResults s).hostFaults = s.hostFaults := rfl
@[simp] theorem unpredictResults_awaiting : (unpredictResults s).awaiting = s.awaiting := rfl
@[simp] theorem unpredictResults_host : (unpredictResults s).host = s.host := rfl
@[simp] theorem unpredictResults_response : (unpredictResults s).response = s.response := rfl
@[simp] theorem unpredictResults_draws : (unpredictResults s).draws = s.draws + 1 := rfl

/-! ### beginCommand -/

@[simp] theorem beginCommand_platform : (beginCommand s).platform = s.platform := rfl
@[simp] theorem beginCommand_statusErr : (beginCommand s).statusErr = s.statusErr := rfl
@[simp] theorem beginCommand_statusSticky : (beginCommand s).statusSticky = s.statusSticky := rfl
@[simp] theorem beginCommand_width : (beginCommand s).width = s.width := rfl
@[simp] theorem beginCommand_height : (beginCommand s).height = s.height := rfl
@[simp] theorem beginCommand_pixIn : (beginCommand s).pixIn = s.pixIn := rfl
@[simp] theorem beginCommand_pixOut : (beginCommand s).pixOut = s.pixOut := rfl
@[simp] theorem beginCommand_outLen : (beginCommand s).outLen = s.outLen := rfl
@[simp] theorem beginCommand_src : (beginCommand s).src = s.src := rfl
@[simp] theorem beginCommand_dst : (beginCommand s).dst = s.dst := rfl
@[simp] theorem beginCommand_hostFaults : (beginCommand s).hostFaults = s.hostFaults := rfl
@[simp] theorem beginCommand_awaiting : (beginCommand s).awaiting = true := rfl
@[simp] theorem beginCommand_host : (beginCommand s).host = s.host := rfl
@[simp] theorem beginCommand_response : (beginCommand s).response = none := rfl
@[simp] theorem beginCommand_draws : (beginCommand s).draws = s.draws := rfl

/-! ### endWait -/

@[simp] theorem endWait_platform : (endWait s).platform = s.platform := rfl
@[simp] theorem endWait_statusErr : (endWait s).statusErr = s.statusErr := rfl
@[simp] theorem endWait_statusSticky : (endWait s).statusSticky = s.statusSticky := rfl
@[simp] theorem endWait_width : (endWait s).width = s.width := rfl
@[simp] theorem endWait_height : (endWait s).height = s.height := rfl
@[simp] theorem endWait_pixIn : (endWait s).pixIn = s.pixIn := rfl
@[simp] theorem endWait_pixOut : (endWait s).pixOut = s.pixOut := rfl
@[simp] theorem endWait_outLen : (endWait s).outLen = s.outLen := rfl
@[simp] theorem endWait_src : (endWait s).src = s.src := rfl
@[simp] theorem endWait_dst : (endWait s).dst = s.dst := rfl
@[simp] theorem endWait_hostFaults : (endWait s).hostFaults = s.hostFaults := rfl
@[simp] theorem endWait_awaiting : (endWait s).awaiting = false := rfl
@[simp] theorem endWait_host : (endWait s).host = s.host := rfl
@[simp] theorem endWait_response : (endWait s).response = s.response := rfl
@[simp] theorem endWait_draws : (endWait s).draws = s.draws := rfl

/-! ### popHost -/

@[simp] theorem popHost_platform : (popHost s).platform = s.platform := rfl
@[simp] theorem popHost_statusErr : (popHost s).statusErr = s.statusErr := rfl
@[simp] theorem popHost_statusSticky : (popHost s).statusSticky = s.statusSticky := rfl
@[simp] theorem popHost_width : (popHost s).width = s.width := rfl
@[simp] theorem popHost_height : (popHost s).height = s.height := rfl
@[simp] theorem popHost_pixIn : (popHost s).pixIn = s.pixIn := rfl
@[simp] theorem popHost_pixOut : (popHost s).pixOut = s.pixOut := rfl
@[simp] theorem popHost_outLen : (popHost s).outLen = s.outLen := rfl
@[simp] theorem popHost_src : (popHost s).src = s.src := rfl
@[simp] theorem popHost_dst : (popHost s).dst = s.dst := rfl
@[simp] theorem popHost_hostFaults : (popHost s).hostFaults = s.hostFaults := rfl
@[simp] theorem popHost_awaiting : (popHost s).awaiting = s.awaiting := rfl
@[simp] theorem popHost_host : (popHost s).host = s.host.tail := rfl
@[simp] theorem popHost_response : (popHost s).response = s.response := rfl
@[simp] theorem popHost_draws : (popHost s).draws = s.draws := rfl

/-! ### resetBlock -/

@[simp] theorem resetBlock_platform : (resetBlock s).platform = s.platform := rfl
@[simp] theorem resetBlock_statusErr : (resetBlock s).statusErr = 0 := rfl
@[simp] theorem resetBlock_statusSticky : (resetBlock s).statusSticky = false := rfl
@[simp] theorem resetBlock_width : (resetBlock s).width = 0 := rfl
@[simp] theorem resetBlock_height : (resetBlock s).height = 0 := rfl
@[simp] theorem resetBlock_pixIn : (resetBlock s).pixIn = 0 := rfl
@[simp] theorem resetBlock_pixOut : (resetBlock s).pixOut = 0 := rfl
@[simp] theorem resetBlock_outLen : (resetBlock s).outLen = 0 := rfl
@[simp] theorem resetBlock_src : (resetBlock s).src = [] := rfl
@[simp] theorem resetBlock_dst : (resetBlock s).dst = [] := rfl
@[simp] theorem resetBlock_hostFaults : (resetBlock s).hostFaults = s.hostFaults := rfl
@[simp] theorem resetBlock_awaiting : (resetBlock s).awaiting = false := rfl
@[simp] theorem resetBlock_host : (resetBlock s).host = s.host := rfl
@[simp] theorem resetBlock_response : (resetBlock s).response = none := rfl
@[simp] theorem resetBlock_draws : (resetBlock s).draws = s.draws := rfl

/-! ### memWrite is dstWrite of the value's bytes -/

@[simp] theorem memWrite_eq_dstWrite (a n : Nat) (v : Word) : memWrite a n v s = dstWrite a (leBytes n v) s := rfl

end Sys2Proof.Machine
end

