-- ==== Sys2Proof/Laws/Ops.lean ====
section
/-! SUPPORT. What the shared operations of commands and host accesses can do, said once. -/

namespace Sys2Proof.Machine

/-- Everything `emitOutput` can do. -/
theorem emitOutput_cases {n : Nat} {out : List Byte} {s t : State} (h : emitOutput n out s = .next t) :
    (s.platform.dstSize < n ∧ t = raiseErr .dst s) ∨
    (n ≤ s.platform.dstSize ∧ t = succeed (setOutLen n (dstWrite 0 out (nextDraw s)))) := by
  unfold emitOutput at h
  split at h
  · exact .inl ⟨by omega, (Host.Outcome.next.inj h).symm⟩
  · exact .inr ⟨by omega, (Host.Outcome.next.inj h).symm⟩

theorem emitOutput_fits {n : Nat} {out : List Byte} {s : State} (h : n ≤ s.platform.dstSize) :
    emitOutput n out s = .next (succeed (setOutLen n (dstWrite 0 out (nextDraw s)))) := by
  rw [emitOutput, if_neg (by omega)]

theorem emitOutput_too_long {n : Nat} {out : List Byte} {s : State} (h : s.platform.dstSize < n) :
    emitOutput n out s = .next (raiseErr .dst s) := by
  rw [emitOutput, if_pos (by omega)]

/-- Everything `withDims` can do. -/
theorem withDims_cases {c : Bool} {k : Nat → Nat → Result} {s t : State} (h : withDims c k s = .next t) :
    (¬ DimOK s.platform.srcPixels (imageW s) (imageH s) ∧ t = raiseErr .dim s) ∨
    (DimOK s.platform.srcPixels (imageW s) (imageH s) ∧ c = true ∧ ¬ LenOK (imageW s) (imageH s) ∧
      t = raiseErr .dim s) ∨
    (DimOK s.platform.srcPixels (imageW s) (imageH s) ∧ (c = true → LenOK (imageW s) (imageH s)) ∧
      k (imageW s) (imageH s) = .next t) := by
  unfold withDims at h
  split at h
  · next hd => exact .inl ⟨hd, (Host.Outcome.next.inj h).symm⟩
  · next hd =>
    have hd := Decidable.not_not.1 hd
    split at h
    · next hl => exact .inr (.inl ⟨hd, hl.1, hl.2, (Host.Outcome.next.inj h).symm⟩)
    · next hl =>
      refine .inr (.inr ⟨hd, fun hc => ?_, h⟩)
      by_contra hn
      exact hl ⟨hc, hn⟩

theorem withDims_bad {c : Bool} {k : Nat → Nat → Result} {s : State}
    (h : ¬ DimOK s.platform.srcPixels (imageW s) (imageH s)) : withDims c k s = .next (raiseErr .dim s) := by
  rw [withDims, if_pos h]

theorem withDims_ok {c : Bool} {k : Nat → Nat → Result} {s : State}
    (h : DimOK s.platform.srcPixels (imageW s) (imageH s)) (hl : c = true → LenOK (imageW s) (imageH s)) :
    withDims c k s = k (imageW s) (imageH s) := by
  rw [withDims, if_neg (not_not.2 h), if_neg fun hn => hn.2 (hl hn.1)]

/-- What a command does after its checks matters only at W and H. -/
theorem withDims_congr {c : Bool} {k k' : Nat → Nat → Result} {s : State}
    (h : k (imageW s) (imageH s) = k' (imageW s) (imageH s)) : withDims c k s = withDims c k' s := by
  simp only [withDims, h]

/-- A register access finds the register whose offset it carries. -/
@[simp] theorem regAt_regOffset (r : Reg) : regAt (regOffset r) = r := by cases r <;> rfl

/-- What `regWrite` leaves alone, whichever register is written. -/
theorem regWrite_frame (r : Reg) (v : Word) (s : State) :
    regWrite r v s = { s with
      width := (regWrite r v s).width, height := (regWrite r v s).height, pixIn := (regWrite r v s).pixIn } := by
  cases r <;> rfl

end Sys2Proof.Machine
end

