-- ==== Sys2Proof/Laws/Exec.lean ====
section
/-! SUPPORT. What a command can do, said once: one equation per command over the shared operations, and one case split for all. -/

namespace Sys2Proof.Machine

/-- The bytes a command writes to DST from offset 0 when it succeeds (41_row_reorder.md R124; 42_headers.md R141, R154;
43_encode.md R170). -/
def outputBytes (i : Instr) (s : State) : List Byte :=
  match i with
  | .red => []
  | .payBmp => payloadBmp (srcWord s) (imageW s) (imageH s)
  | .payTga => payloadTga (srcWord s) (imageW s) (imageH s)
  | .hdrBmp => bmpHeader (imageW s) (imageH s)
  | .hdrTga => tgaHeader (imageW s) (imageH s)
  | .encBmp => bmpHeader (imageW s) (imageH s) ++ payloadBmp (srcWord s) (imageW s) (imageH s)
  | .encTga => tgaHeader (imageW s) (imageH s) ++ payloadTga (srcWord s) (imageW s) (imageH s)

/-- The state a successful DST-writing command ends in. -/
def emitted (n : Nat) (out : List Byte) (s : State) : State :=
  succeed (setOutLen n (dstWrite 0 out (nextDraw s)))

/-- RED has no check and one effect. -/
theorem exec_red (s : State) : exec .red s = .next (succeed (setPixOut (reducePix (s.pixIn.setWidth 32)) s)) := rfl

/-- Every other command is its checks and then its output. -/
theorem exec_eq_emitOutput {i : Instr} {n : Nat} (s : State)
    (h : Safety.outputLength i (imageW s) (imageH s) = some n) :
    exec i s = withDims (Safety.checksLength i) (fun _ _ => emitOutput n (outputBytes i s) s) s := by
  cases i
  case red => cases h
  all_goals
    cases h
    simp only [exec, execPayBmp, execPayTga, execHdrBmp, execHdrTga, execEncBmp, execEncTga]
    exact withDims_congr rfl

theorem outputLength_isSome {i : Instr} (hi : i ≠ .red) (W H : Nat) : ∃ n, Safety.outputLength i W H = some n := by
  cases i
  case red => exact absurd rfl hi
  all_goals exact ⟨_, rfl⟩

theorem exec_bad_dims {i : Instr} {s : State} (hi : i ≠ .red)
    (h : ¬ DimOK s.platform.srcPixels (imageW s) (imageH s)) : exec i s = .next (raiseErr .dim s) := by
  obtain ⟨n, hn⟩ := outputLength_isSome hi (imageW s) (imageH s)
  rw [exec_eq_emitOutput s hn, withDims_bad h]

theorem exec_too_long {i : Instr} {s : State} {n : Nat} (hn : Safety.outputLength i (imageW s) (imageH s) = some n)
    (hd : DimOK s.platform.srcPixels (imageW s) (imageH s))
    (hl : Safety.checksLength i = true → LenOK (imageW s) (imageH s)) (h : s.platform.dstSize < n) :
    exec i s = .next (raiseErr .dst s) := by
  rw [exec_eq_emitOutput s hn, withDims_ok hd hl, emitOutput_too_long h]

theorem exec_fits {i : Instr} {s : State} {n : Nat} (hn : Safety.outputLength i (imageW s) (imageH s) = some n)
    (hd : DimOK s.platform.srcPixels (imageW s) (imageH s))
    (hl : Safety.checksLength i = true → LenOK (imageW s) (imageH s)) (h : n ≤ s.platform.dstSize) :
    exec i s = .next (emitted n (outputBytes i s) s) := by
  rw [exec_eq_emitOutput s hn, withDims_ok hd hl, emitOutput_fits h, emitted]

/-- Everything a command can do. -/
theorem exec_cases {i : Instr} {s t : State} (h : exec i s = .next t) :
    (i = .red ∧ t = succeed (setPixOut (reducePix (s.pixIn.setWidth 32)) s)) ∨
    (i ≠ .red ∧ t = raiseErr .dim s) ∨
    (∃ n, Safety.outputLength i (imageW s) (imageH s) = some n ∧ s.platform.dstSize < n ∧ t = raiseErr .dst s) ∨
    (∃ n, Safety.outputLength i (imageW s) (imageH s) = some n ∧
      DimOK s.platform.srcPixels (imageW s) (imageH s) ∧ n ≤ s.platform.dstSize ∧
      t = emitted n (outputBytes i s) s) := by
  by_cases hi : i = .red
  · subst hi
    exact .inl ⟨rfl, (Host.Outcome.next.inj h).symm⟩
  · obtain ⟨n, hn⟩ := outputLength_isSome hi (imageW s) (imageH s)
    rw [exec_eq_emitOutput s hn] at h
    rcases withDims_cases h with ⟨_, ht⟩ | ⟨_, _, _, ht⟩ | ⟨hd, _, he⟩
    · exact .inr (.inl ⟨hi, ht⟩)
    · exact .inr (.inl ⟨hi, ht⟩)
    · rcases emitOutput_cases he with ⟨hs, ht⟩ | ⟨hs, ht⟩
      · exact .inr (.inr (.inl ⟨n, hn, hs, ht⟩))
      · exact .inr (.inr (.inr ⟨n, hn, hd, hs, ht⟩))

end Sys2Proof.Machine
end

