-- ==== Sys2Proof/Laws/Memory.lean ====
section
/-! SUPPORT. Memories: a read after a write, what a write leaves alone, and that every memory operation keeps the canonical form. -/

namespace Sys2Proof.Machine

variable {w : Nat}

@[simp] theorem read_nil (a : Nat) : Memory.read ([] : Memory w) a = none := rfl

theorem read_cons (c : Nat × BitVec w) (m : Memory w) (a : Nat) :
    Memory.read (c :: m) a = if c.1 = a then some c.2 else Memory.read m a := rfl

theorem read_eq_none_of_forall_ne (m : Memory w) (a : Nat) (h : ∀ c ∈ m, c.1 ≠ a) : m.read a = none := by
  induction m with
  | nil => rfl
  | cons c m ih =>
    rw [read_cons, if_neg (h c (by simp))]
    exact ih fun d hd => h d (List.mem_cons_of_mem _ hd)

theorem read_append (m m' : Memory w) (a : Nat) :
    Memory.read (m ++ m') a = (m.read a).or (m'.read a) := by
  induction m with
  | nil => simp [Memory.read]
  | cons c m ih =>
    simp only [List.cons_append, read_cons, ih]
    split <;> simp

/-- Keeping only the indices that satisfy a test changes no read at one that does. -/
theorem read_filter_of_true (m : Memory w) (p : Nat → Bool) (a : Nat) (h : p a = true) :
    Memory.read (m.filter fun c => p c.1) a = m.read a := by
  induction m with
  | nil => rfl
  | cons c m ih =>
    by_cases hc : p c.1
    · simp only [List.filter_cons, hc, if_true, read_cons, ih]
    · have : c.1 ≠ a := fun e => hc (e ▸ h)
      simp only [List.filter_cons, hc, read_cons, this, if_false, ih, Bool.false_eq_true]

theorem read_filter_of_false (m : Memory w) (p : Nat → Bool) (a : Nat) (h : p a = false) :
    Memory.read (m.filter fun c => p c.1) a = none := by
  refine read_eq_none_of_forall_ne _ _ fun c hc e => ?_
  have := (List.mem_filter.1 hc).2
  simp [e, h] at this

theorem mem_cellsFrom (a : Nat) (vs : List (BitVec w)) :
    ∀ c ∈ cellsFrom a vs, a ≤ c.1 ∧ c.1 < a + vs.length := by
  induction vs generalizing a with
  | nil => simp [cellsFrom]
  | cons v vs ih =>
    intro c hc
    rcases List.mem_cons.1 hc with rfl | hc
    · simp
    · have := ih (a + 1) c hc
      simp only [List.length_cons]
      omega

theorem read_cellsFrom (a b : Nat) (vs : List (BitVec w)) :
    (cellsFrom a vs).read b = if a ≤ b then vs[b - a]? else none := by
  induction vs generalizing a with
  | nil => simp [cellsFrom]
  | cons v vs ih =>
    rw [cellsFrom, read_cons, ih]
    rcases Nat.lt_trichotomy a b with h | rfl | h
    · have e : b - a = (b - (a + 1)) + 1 := by omega
      rw [if_neg (by simp; omega), if_pos (by omega), if_pos (by omega), e, List.getElem?_cons_succ]
    · simp
    · rw [if_neg (by simp; omega), if_neg (by omega), if_neg (by omega)]

/-- What a read returns after a write: the sequence where it was written, the old contents elsewhere. -/
theorem read_writeFrom (m : Memory w) (a b : Nat) (vs : List (BitVec w)) :
    (m.writeFrom a vs).read b = if a ≤ b ∧ b < a + vs.length then vs[b - a]? else m.read b := by
  rw [Memory.writeFrom, read_append, read_append, read_cellsFrom]
  by_cases h1 : b < a
  · rw [read_filter_of_true m (fun i => decide (i < a)) b (by simpa using h1),
      read_filter_of_false m (fun i => decide (a + vs.length ≤ i)) b (by simp; omega),
      if_neg (by omega), if_neg (by omega)]
    simp
  · rw [read_filter_of_false m (fun i => decide (i < a)) b (by simpa using h1), if_pos (by omega)]
    by_cases h2 : b < a + vs.length
    · rw [read_filter_of_false m (fun i => decide (a + vs.length ≤ i)) b (by simp; omega), if_pos (by omega)]
      simp
    · rw [read_filter_of_true m (fun i => decide (a + vs.length ≤ i)) b (by simp; omega), if_neg (by omega),
        List.getElem?_eq_none (by omega)]
      simp

theorem read_writeFrom_of_lt (m : Memory w) (a b : Nat) (vs : List (BitVec w)) (h : b < a) :
    (m.writeFrom a vs).read b = m.read b := by
  rw [read_writeFrom, if_neg (by omega)]

theorem read_writeFrom_of_le (m : Memory w) (a b : Nat) (vs : List (BitVec w)) (h : a + vs.length ≤ b) :
    (m.writeFrom a vs).read b = m.read b := by
  rw [read_writeFrom, if_neg (by omega)]

theorem cellsFrom_wf (a : Nat) (vs : List (BitVec w)) : (cellsFrom a vs).wf := by
  induction vs generalizing a with
  | nil => exact List.Pairwise.nil
  | cons v vs ih =>
    refine List.Pairwise.cons (fun c hc => ?_) (ih (a + 1))
    exact (mem_cellsFrom (a + 1) vs c hc).1

/-- A write keeps the canonical form. -/
theorem writeFrom_wf (m : Memory w) (a : Nat) (vs : List (BitVec w)) (h : m.wf) : (m.writeFrom a vs).wf := by
  refine List.pairwise_append.2 ⟨List.pairwise_append.2 ⟨h.filter _, cellsFrom_wf a vs, ?_⟩, h.filter _, ?_⟩
  · intro c hc d hd
    have h1 : c.1 < a := by simpa using (List.mem_filter.1 hc).2
    exact lt_of_lt_of_le h1 (mem_cellsFrom a vs d hd).1
  · intro c hc d hd
    have h2 : a + vs.length ≤ d.1 := by simpa using (List.mem_filter.1 hd).2
    rcases List.mem_append.1 hc with hc | hc
    · have h1 : c.1 < a := by simpa using (List.mem_filter.1 hc).2
      omega
    · have := (mem_cellsFrom a vs c hc).2
      omega

/-- A write inside a bound keeps the bound. -/
theorem writeFrom_below (m : Memory w) (a n : Nat) (vs : List (BitVec w)) (h : m.below n) (hn : a + vs.length ≤ n) :
    (m.writeFrom a vs).below n := by
  intro c hc
  rcases List.mem_append.1 hc with hc | hc
  · rcases List.mem_append.1 hc with hc | hc
    · exact h c (List.mem_filter.1 hc).1
    · exact lt_of_lt_of_le (mem_cellsFrom a vs c hc).2 hn
  · exact h c (List.mem_filter.1 hc).1

/-- The memories of a state after reset are in canonical form. -/
theorem resetOf_memories_wf (p : Platform) : (State.resetOf p).src.wf ∧ (State.resetOf p).dst.wf :=
  ⟨List.Pairwise.nil, List.Pairwise.nil⟩

end Sys2Proof.Machine
end

