-- ==== Sys2Proof/Laws/PerInstr.lean ====
section
/-! SUPPORT. Statements made per command: its word is the row of spec/opcode_table.json (30_encoding.md R72). -/

namespace Sys2Proof.Laws

/-- A command's word is its OPCODE in bits 7:0 under a zero RSV, and it is well formed (30_encoding.md R70, R72). -/
def CommandWord.Statement (i : Instr) : Prop :=
  i.wf = true ∧ (encode i).toNat = (opcodeOf i).toNat

theorem CommandWord.red : CommandWord.Statement .red := ⟨rfl, rfl⟩
theorem CommandWord.payBmp : CommandWord.Statement .payBmp := ⟨rfl, rfl⟩
theorem CommandWord.payTga : CommandWord.Statement .payTga := ⟨rfl, rfl⟩
theorem CommandWord.hdrBmp : CommandWord.Statement .hdrBmp := ⟨rfl, rfl⟩
theorem CommandWord.hdrTga : CommandWord.Statement .hdrTga := ⟨rfl, rfl⟩
theorem CommandWord.encBmp : CommandWord.Statement .encBmp := ⟨rfl, rfl⟩
theorem CommandWord.encTga : CommandWord.Statement .encTga := ⟨rfl, rfl⟩

end Sys2Proof.Laws
end

