-- ==== Sys2Proof/Laws/Step.lean ====
section
/-! SUPPORT. What a host access and a step can do, said once, and where an address lies. -/

namespace Sys2Proof.Machine

/-! ### Windows -/

theorem locate_reg {p : Platform} {a : Nat} (h : inSpace p .reg a) : locate p a = some (.reg, a - p.regBase) := by
  rw [locate, if_pos h]

/-- On a well-formed platform an address lies in one window only. -/
theorem locate_of_inSpace {p : Platform} (hp : p.wf) {sp : Space} {a : Nat} (h : inSpace p sp a) :
    locate p a = some (sp, a - spaceBase p sp) := by
  obtain ⟨-, -, -, h1, h2, h3⟩ := hp
  simp only [apart, inSpace] at *
  cases sp
  · rw [locate, if_pos h]; rfl
  · rw [locate, if_neg (by simp only [inSpace]; omega), if_pos h]; rfl
  · rw [locate, if_neg (by simp only [inSpace]; omega), if_neg (by simp only [inSpace]; omega), if_pos h]; rfl

/-- An address that is located lies in that window, at that offset. -/
theorem locate_some {p : Platform} {a off : Nat} {sp : Space} (h : locate p a = some (sp, off)) :
    inSpace p sp a ∧ off = a - spaceBase p sp := by
  unfold locate at h
  split at h
  · next hi => obtain ⟨rfl, rfl⟩ := Prod.mk.inj (Option.some.inj h); exact ⟨hi, rfl⟩
  · split at h
    · next hi => obtain ⟨rfl, rfl⟩ := Prod.mk.inj (Option.some.inj h); exact ⟨hi, rfl⟩
    · split at h
      · next hi => obtain ⟨rfl, rfl⟩ := Prod.mk.inj (Option.some.inj h); exact ⟨hi, rfl⟩
      · cases h

/-! ### Host accesses -/

/-- An access outside the windows is a bus error. -/
theorem hostAccess_outside {a : Access} {s : State} (h : locate s.platform a.address = none) :
    hostAccess a s = .next (recordBusError a s) := by
  simp only [hostAccess, h]

/-- An access that the host protocol forbids is recorded, and the run goes on. -/
theorem hostAccess_forbidden {a : Access} {s : State} {sp : Space} {off : Nat}
    (h : locate s.platform a.address = some (sp, off)) (hw : s.awaiting = true) (hr : ¬ isStatusRead sp off a) :
    hostAccess a s = .next (violation sp off a s) := by
  simp only [hostAccess, h]
  rw [if_pos ⟨hw, hr⟩]

/-- An access that the host protocol allows and the window refuses. -/
theorem hostAccess_busError {a : Access} {s : State} {sp : Space} {off : Nat}
    (h : locate s.platform a.address = some (sp, off)) (hw : s.awaiting = true → isStatusRead sp off a)
    (ha : ¬ accepts s.platform sp off a.width) : hostAccess a s = .next (recordBusError a s) := by
  simp only [hostAccess, h]
  rw [if_neg fun hn => hn.2 (hw hn.1), if_pos ha]

/-- An access that the host protocol allows and the window accepts. -/
theorem hostAccess_accepted {a : Access} {s : State} {sp : Space} {off : Nat}
    (h : locate s.platform a.address = some (sp, off)) (hw : s.awaiting = true → isStatusRead sp off a)
    (ha : accepts s.platform sp off a.width) : hostAccess a s = acceptedAccess sp off a s := by
  simp only [hostAccess, h]
  rw [if_neg fun hn => hn.2 (hw hn.1), if_neg (not_not.2 ha)]

/-- Everything an access can do. -/
theorem hostAccess_outcome (a : Access) (s : State) :
    (locate s.platform a.address = none ∧ hostAccess a s = .next (recordBusError a s)) ∨
    ∃ sp off, locate s.platform a.address = some (sp, off) ∧
      ((s.awaiting = true ∧ ¬ isStatusRead sp off a ∧ hostAccess a s = .next (violation sp off a s)) ∨
       ((s.awaiting = true → isStatusRead sp off a) ∧
        ((¬ accepts s.platform sp off a.width ∧ hostAccess a s = .next (recordBusError a s)) ∨
         (accepts s.platform sp off a.width ∧ hostAccess a s = acceptedAccess sp off a s)))) := by
  cases hl : locate s.platform a.address with
  | none => exact .inl ⟨rfl, hostAccess_outside hl⟩
  | some q =>
    obtain ⟨sp, off⟩ := q
    refine .inr ⟨sp, off, rfl, ?_⟩
    by_cases hw : s.awaiting = true → isStatusRead sp off a
    · by_cases ha : accepts s.platform sp off a.width
      · exact .inr ⟨hw, .inr ⟨ha, hostAccess_accepted hl hw ha⟩⟩
      · exact .inr ⟨hw, .inl ⟨ha, hostAccess_busError hl hw ha⟩⟩
    · have hw' := Classical.not_imp.1 hw
      exact .inl ⟨hw'.1, hw'.2, hostAccess_forbidden hl hw'.1 hw'.2⟩

/-- Everything an access that answers a next state can have done. -/
theorem hostAccess_cases {a : Access} {s t : State} (h : hostAccess a s = .next t) :
    (locate s.platform a.address = none ∧ t = recordBusError a s) ∨
    ∃ sp off, locate s.platform a.address = some (sp, off) ∧
      ((s.awaiting = true ∧ ¬ isStatusRead sp off a ∧ t = violation sp off a s) ∨
       ((s.awaiting = true → isStatusRead sp off a) ∧
        ((¬ accepts s.platform sp off a.width ∧ t = recordBusError a s) ∨
         (accepts s.platform sp off a.width ∧ acceptedAccess sp off a s = .next t)))) := by
  rcases hostAccess_outcome a s with ⟨hl, e⟩ | ⟨sp, off, hl, ⟨hw, hr, e⟩ | ⟨hw, ⟨ha, e⟩ | ⟨ha, e⟩⟩⟩ <;> rw [e] at h
  · exact .inl ⟨hl, (Host.Outcome.next.inj h).symm⟩
  · exact .inr ⟨sp, off, hl, .inl ⟨hw, hr, (Host.Outcome.next.inj h).symm⟩⟩
  · exact .inr ⟨sp, off, hl, .inr ⟨hw, .inl ⟨ha, (Host.Outcome.next.inj h).symm⟩⟩⟩
  · exact .inr ⟨sp, off, hl, .inr ⟨hw, .inr ⟨ha, h⟩⟩⟩

/-! ### What reads, writes and violations leave alone -/

/-- A host read answers, and counts a draw for SRC and DST. -/
theorem hostRead_frame (sp : Space) (off width : Nat) (s : State) :
    hostRead sp off width s = { s with
      response := (hostRead sp off width s).response, draws := (hostRead sp off width s).draws } := by
  cases sp <;> rfl

/-- A host write stores in one place. -/
theorem hostWrite_frame (sp : Space) (off width : Nat) (v : Word) (s : State) :
    hostWrite sp off width v s = { s with
      response := none, width := (hostWrite sp off width v s).width, height := (hostWrite sp off width v s).height,
      pixIn := (hostWrite sp off width v s).pixIn, src := (hostWrite sp off width v s).src,
      dst := (hostWrite sp off width v s).dst } := by
  cases sp
  · simp only [hostWrite]; cases regAt off <;> rfl
  · rfl
  · rfl

/-- Everything a forbidden access can do itself. -/
theorem forbiddenEffect_cases (sp : Space) (off : Nat) (a : Access) (s : State) :
    (¬ accepts s.platform sp off a.width ∧ forbiddenEffect sp off a s = recordBusError a s) ∨
    (accepts s.platform sp off a.width ∧
      ((∃ ad w, a = .read ad w ∧ forbiddenEffect sp off a s = hostRead sp off w s) ∨
       (∃ ad w v, a = .write ad w v ∧ forbiddenEffect sp off a s = respond none s) ∨
       (∃ ad w v, a = .write ad w v ∧ forbiddenEffect sp off a s = hostWrite sp off w v s))) := by
  unfold forbiddenEffect
  split
  · next h => exact .inl ⟨h, rfl⟩
  · next h =>
    refine .inr ⟨Decidable.not_not.1 h, ?_⟩
    cases a with
    | read ad w => exact .inl ⟨ad, w, rfl, rfl⟩
    | write ad w v =>
      by_cases ht : Config.freeTaken s.draws = true
      · exact .inr (.inr ⟨ad, w, v, rfl, if_pos ht⟩)
      · exact .inr (.inl ⟨ad, w, v, rfl, if_neg ht⟩)

/-- What a forbidden access leaves alone, and the faults it records. -/
theorem forbiddenEffect_frame (sp : Space) (off : Nat) (a : Access) (s : State) :
    let t := forbiddenEffect sp off a s
    t.platform = s.platform ∧ t.awaiting = s.awaiting ∧ t.host = s.host ∧ t.statusErr = s.statusErr ∧
    t.statusSticky = s.statusSticky ∧ t.pixOut = s.pixOut ∧ t.outLen = s.outLen ∧
    t.hostFaults = s.hostFaults ++ if accepts s.platform sp off a.width then [] else [.busError a.address a.width] := by
  rcases forbiddenEffect_cases sp off a s with ⟨h, e⟩ | ⟨h, ⟨_, _, rfl, e⟩ | ⟨_, _, _, rfl, e⟩ | ⟨_, _, _, rfl, e⟩⟩
  · simp [e, h]
  · rw [e, hostRead_frame]; simp [h]
  · simp [e, h]
  · rw [e, hostWrite_frame]; simp [h]

/-- What a protocol violation leaves alone, and the faults it records. -/
theorem violation_frame (sp : Space) (off : Nat) (a : Access) (s : State) :
    let t := violation sp off a s
    t.platform = s.platform ∧ t.awaiting = s.awaiting ∧ t.host = s.host ∧
    (s.statusSticky = true → t.statusSticky = true) ∧ t.dst = [] ∧
    t.hostFaults = s.hostFaults ++ .protocolViolation a ::
      if accepts s.platform sp off a.width then [] else [.busError a.address a.width] := by
  obtain ⟨h1, h2, h3, -, h5, -, -, h8⟩ := forbiddenEffect_frame sp off a (unpredictResults (recordViolation a s))
  refine ⟨h1, h2, h3, fun h => ?_, rfl, h8.trans ?_⟩
  · simp only [violation, unpredictResults_statusSticky, h5, recordViolation_statusSticky, h, Bool.true_or]
  · simp only [unpredictResults_hostFaults, recordViolation_hostFaults, List.append_assoc, List.singleton_append]
    rfl

/-- Everything an accepted access can do. -/
theorem acceptedAccess_cases {sp : Space} {off : Nat} {a : Access} {s t : State}
    (h : acceptedAccess sp off a s = .next t) :
    (∃ ad w, a = .read ad w ∧ t = hostRead sp off w s) ∨
    (∃ ad w v, a = .write ad w v ∧ sp = .reg ∧ off = cmdOffset ∧ runCommandWord v (beginCommand s) = .next t) ∨
    (∃ ad w v, a = .write ad w v ∧ ¬ (sp = .reg ∧ off = cmdOffset) ∧ t = hostWrite sp off w v s) := by
  cases a with
  | read ad w => exact .inl ⟨ad, w, rfl, (Host.Outcome.next.inj h).symm⟩
  | write ad w v =>
    simp only [acceptedAccess] at h
    split at h
    · next hc => exact .inr (.inl ⟨ad, w, v, rfl, hc.1, hc.2, h⟩)
    · next hc => exact .inr (.inr ⟨ad, w, v, rfl, hc, (Host.Outcome.next.inj h).symm⟩)

/-- A word written to CMD. -/
theorem runCommandWord_ok {c : Word} {i : Instr} (s : State) (h : decode c = .ok i) : runCommandWord c s = exec i s := by
  simp only [runCommandWord, h]

theorem runCommandWord_error {c : Word} {e : DecodeReject} (s : State) (h : decode c = .error e) :
    runCommandWord c s = .next (raiseErr .opcode s) := by
  simp only [runCommandWord, h]

theorem runCommandWord_cases {c : Word} {s t : State} (h : runCommandWord c s = .next t) :
    (∃ i, decode c = .ok i ∧ exec i s = .next t) ∨ ((∃ e, decode c = .error e) ∧ t = raiseErr .opcode s) := by
  cases hd : decode c with
  | ok i => rw [runCommandWord_ok s hd] at h; exact .inl ⟨i, rfl, h⟩
  | error e => rw [runCommandWord_error s hd] at h; exact .inr ⟨⟨e, rfl⟩, (Host.Outcome.next.inj h).symm⟩

/-! ### The step -/

theorem step_idle {s : State} (h : s.host = []) : step s = .next s := by
  simp only [step, h]

theorem step_event {s : State} {e : HostEvent} {es : List HostEvent} (h : s.host = e :: es) :
    step s = hostEvent e (popHost s) := by
  simp only [step, h]

/-! ### Runs -/

theorem run_of_next (n : Nat) {s t : State} (h : step s = .next t) :
    Sys2Proof.core.run (n + 1) s = Sys2Proof.core.run n t := by
  have h' : Sys2Proof.core.step s = .next t := h
  simp only [Host.Core.run, h']

/-! ### Inversion of a step -/

/-- Everything a step that goes on can do. -/
theorem step_cases {s t : State} (h : step s = .next t) :
    (s.host = [] ∧ t = s) ∨
    (∃ es, s.host = .reset :: es ∧ t = resetBlock (popHost s)) ∨
    (∃ es, s.host = .wait :: es ∧ t = hostWait (popHost s)) ∨
    (∃ a es, s.host = .access a :: es ∧ hostAccess a (popHost s) = .next t) := by
  cases hh : s.host with
  | nil => rw [step_idle hh] at h; exact .inl ⟨rfl, (Host.Outcome.next.inj h).symm⟩
  | cons e es =>
    rw [step_event hh] at h
    cases e with
    | reset => exact .inr (.inl ⟨es, rfl, (Host.Outcome.next.inj h).symm⟩)
    | wait => exact .inr (.inr (.inl ⟨es, rfl, (Host.Outcome.next.inj h).symm⟩))
    | access a => exact .inr (.inr (.inr ⟨a, es, rfl, h⟩))

end Sys2Proof.Machine
end

