-- ==== Sys2Proof/Tests/Slice0.lean ====
section
/-! SUPPORT. Small tests of the model against the spec's own words and vectors, and a witness for the hypotheses of each statement. -/

namespace Sys2Proof.Tests

open Sys2Proof.Machine

/-! ### States the tests start from -/

/-- SRC_PIXELS = 16 and DST_SIZE = 128, as 95_test_vectors.md 2.2 has them. -/
def platform16 : Platform :=
  { srcPixels := 16, dstSize := 128, regBase := 0x40, srcBase := 0x100, dstBase := 0x200 }

/-- A state with a size and the first SRC words written. -/
def imageState (p : Platform) (W H : Word) (pixels : List Pixel) : State :=
  { State.resetOf p with width := W, height := H, src := cellsFrom 0 pixels }

/-- The 2 x 2 image of 95_test_vectors.md P2: red, green / blue, white. -/
def image2x2 : State := imageState platform16 2 2 [0xFF0000, 0x00FF00, 0x0000FF, 0xFFFFFF]

/-- The 2 x 3 image of 95_test_vectors.md 2.2. -/
def image2x3 : State :=
  imageState platform16 2 3 [0x000000, 0xFF0000, 0x00FF00, 0x0000FF, 0xFFFFFF, 0x808080]

/-- The 2 x 2 image with another DST size. -/
def image2x2In (dstSize : Nat) : State := { image2x2 with platform := { platform16 with dstSize := dstSize } }

/-- A state whose size passes DimOK and fails LenOK: only a platform beyond 00_scope.md R10's bound has one. -/
def hugeState : State :=
  imageState { platform16 with srcPixels := 65535 * 65535 } 65535 65535 []

/-- The state a result goes on in. -/
def after (r : Result) : State :=
  match r with
  | .next s => s
  | .fault _ => State.reset
  | .refused _ => State.reset

/-- The bytes of DST that are specified, in order. -/
def dstList (s : State) : List Byte := s.dst.map Prod.snd

/-- A state whose host has one event left. -/
def withEvent (s : State) (e : HostEvent) : State := { s with host := [e] }

/-! ### Well-formedness: one ill-formed term for each check -/

theorem test_wf_platform16 : platform16.wf := by decide
theorem test_wf_reference : Platform.reference.wf := by decide
theorem test_wf_refuses_no_pixels : ¬ { platform16 with srcPixels := 0 }.wf := by decide
theorem test_wf_refuses_too_many_pixels : ¬ { platform16 with srcPixels := 2 ^ 30 + 1, srcBase := 0x1000 }.wf := by decide
theorem test_wf_refuses_no_dst : ¬ { platform16 with dstSize := 0 }.wf := by decide
theorem test_wf_refuses_dst_too_long : ¬ { platform16 with dstSize := 2 ^ 32 }.wf := by decide
theorem test_wf_refuses_unaligned_reg : ¬ { platform16 with regBase := 0x44 }.wf := by decide
theorem test_wf_refuses_unaligned_src : ¬ { platform16 with srcBase := 0x102 }.wf := by decide
theorem test_wf_refuses_unaligned_dst : ¬ { platform16 with dstBase := 0x201 }.wf := by decide
theorem test_wf_refuses_src_over_reg : ¬ { platform16 with srcBase := 0x5C }.wf := by decide
theorem test_wf_refuses_dst_over_reg : ¬ { platform16 with dstBase := 0x40 }.wf := by decide
theorem test_wf_refuses_dst_over_src : ¬ { platform16 with dstBase := 0x13C }.wf := by decide
theorem test_wf_refuses_word_zero : legalCommandWord 0x00000000 = false := by decide
theorem test_wf_refuses_reserved_bits : legalCommandWord 0x00000106 = false := by decide

/-- 95_test_vectors.md P5: a read of DST between `cmd` and `wait` is refused; with the `wait` it is taken. -/
theorem test_wf_refuses_program_without_wait :
    programConforms false [.cmd .encBmp, .rdb 70] = false ∧ programConforms false [.cmd .encBmp, .wait, .rdb 70] = true ∧
    hostConforms platform16 false (programEvents platform16 [.cmd .encBmp, .rdb 70]) = false ∧
    hostConforms platform16 false (programEvents platform16 [.cmd .encBmp, .wait, .rdb 70]) = true := by decide

/-- 30_encoding.md R82, 70_reset_and_hazards.md R244: `rd STATUS` may stand before the `wait` and does not stand for it. -/
theorem test_wf_refuses_lone_status_read :
    programConforms false [.cmd .encBmp, .rd .status, .rdb 70] = false ∧
    programConforms false [.cmd .encBmp, .rd .status, .cmd .red] = false ∧
    programConforms false [.cmd .encBmp, .rd .status, .wait, .rdb 70] = true ∧
    hostConforms platform16 false (programEvents platform16 [.cmd .encBmp, .rd .status, .rdb 70]) = false := by decide

theorem test_wf_refuses_raw_cmd_write_without_wait :
    programConforms false [.wr .cmd 0x00000106, .rd .outLen] = false := by decide
theorem test_wf_refuses_out_of_range :
    (Stmt.wpix 16 0).inRange platform16 = false ∧ (Stmt.rpix 16).inRange platform16 = false ∧
    (Stmt.wrb 128 0).inRange platform16 = false ∧ (Stmt.rdb 128).inRange platform16 = false ∧
    (Stmt.rdh 128).inRange platform16 = false ∧ (Stmt.rdw 128).inRange platform16 = false := by decide

/-! ### Decoding: the words of 30_encoding.md R72, written out by bits, RSV (24 zeros) then OPCODE (8 bits) -/

theorem test_decode_red : decode 0b00000000000000000000000000000001 = .ok .red := by rfl
theorem test_decode_payBmp : decode 0b00000000000000000000000000000010 = .ok .payBmp := by rfl
theorem test_decode_payTga : decode 0b00000000000000000000000000000011 = .ok .payTga := by rfl
theorem test_decode_hdrBmp : decode 0b00000000000000000000000000000100 = .ok .hdrBmp := by rfl
theorem test_decode_hdrTga : decode 0b00000000000000000000000000000101 = .ok .hdrTga := by rfl
theorem test_decode_encBmp : decode 0b00000000000000000000000000000110 = .ok .encBmp := by rfl
theorem test_decode_encTga : decode 0b00000000000000000000000000000111 = .ok .encTga := by rfl

/-- 30_encoding.md R73 and rows 4 to 6 and 13 of 95_test_vectors.md 2.5. -/
theorem test_decode_rejects :
    decode 0x00000000 = .error .opcode ∧ decode 0x00000008 = .error .opcode ∧ decode 0x000000FF = .error .opcode ∧
    decode 0x00000101 = .error .reservedBits ∧ decode 0x00000106 = .error .reservedBits :=
  ⟨rfl, rfl, rfl, rfl, rfl⟩

theorem test_decodeTableWord : decodeTableWord 32 6 = some .encBmp ∧ decodeTableWord 32 8 = none := ⟨rfl, rfl⟩

/-! ### Commands, against 95_test_vectors.md -/

/-- 2.1: 0x123456 gives 0x11AA; ERR = 0 and STICKY as it was. -/
theorem test_red_mixed_pixel :
    let t := after (exec .red { State.reset with pixIn := 0x123456, statusErr := 2, statusSticky := true })
    t.pixOut = 0x11AA ∧ statusWord t = 0x10 := by decide

/-- 2.1: one below each threshold, so that a rounding or swapped channel shows. -/
theorem test_red_below_thresholds :
    (after (exec .red { State.reset with pixIn := 0xF7FBF7 })).pixOut = 0xF7DE ∧ reduce565 255 0 0 = 0xF800 := by decide

/-- 2.2, 2 x 3. -/
theorem test_payBmp_2x3 :
    dstList (after (exec .payBmp image2x3)) =
      [0xFF, 0xFF, 0x10, 0x84, 0xE0, 0x07, 0x1F, 0x00, 0x00, 0x00, 0x00, 0xF8] ∧
    (after (exec .payBmp image2x3)).outLen = 12 := by decide

/-- 2.2, 2 x 3. -/
theorem test_payTga_2x3 :
    dstList (after (exec .payTga image2x3)) =
      [0x00, 0x00, 0x00, 0xF8, 0xE0, 0x07, 0x1F, 0x00, 0xFF, 0xFF, 0x10, 0x84] ∧
    (after (exec .payTga image2x3)).outLen = 12 := by decide

/-- 2.3, 300 x 200. -/
theorem test_hdrBmp_300x200 :
    (bmpHeader 300 200).take 38 =
      [0x42, 0x4D, 0x06, 0xD5, 0x01, 0x00, 0x00, 0x00, 0x00, 0x00, 0x46, 0x00, 0x00, 0x00, 0x38, 0x00, 0x00, 0x00,
       0x2C, 0x01, 0x00, 0x00, 0xC8, 0x00, 0x00, 0x00, 0x01, 0x00, 0x10, 0x00, 0x03, 0x00, 0x00, 0x00, 0xC0, 0xD4,
       0x01, 0x00] := by decide

/-- 2.5 row 9: 70 > 64. -/
theorem test_hdrBmp_too_long :
    let t := after (exec .hdrBmp (image2x2In 64))
    statusWord t = 0x13 ∧ t.dst = [] ∧ t.outLen = 0 := by decide

/-- 2.3, 300 x 200. -/
theorem test_hdrTga_300x200 :
    dstList (after (exec .hdrTga (imageState { platform16 with srcPixels := 60000 } 300 200 []))) =
      [0x00, 0x00, 0x02, 0x00, 0x00, 0x00, 0x00, 0x00, 0x00, 0x00, 0x00, 0x00, 0x2C, 0x01, 0xC8, 0x00, 0x10, 0x20] := by
  decide

/-- 2.5 row 8: W = 65536 is an error and is never truncated. -/
theorem test_hdrTga_65536 :
    statusWord (after (exec .hdrTga (imageState { platform16 with srcPixels := 2 ^ 20 } 65536 1 []))) = 0x12 := by decide

/-- P2, step 7. -/
theorem test_encBmp_2x2 :
    dstList (after (exec .encBmp image2x2)) =
      [0x42, 0x4D, 0x4E, 0x00, 0x00, 0x00, 0x00, 0x00, 0x00, 0x00, 0x46, 0x00, 0x00, 0x00, 0x38, 0x00, 0x00, 0x00,
       0x02, 0x00, 0x00, 0x00, 0x02, 0x00, 0x00, 0x00, 0x01, 0x00, 0x10, 0x00,
       0x03, 0x00, 0x00, 0x00, 0x08, 0x00, 0x00, 0x00] ++ List.replicate 16 0 ++
      [0x00, 0xF8, 0x00, 0x00, 0xE0, 0x07, 0x00, 0x00, 0x1F, 0x00, 0x00, 0x00, 0x00, 0x00, 0x00, 0x00,
       0x1F, 0x00, 0xFF, 0xFF, 0x00, 0xF8, 0xE0, 0x07] ∧
    (after (exec .encBmp image2x2)).outLen = 78 := by decide

/-- 2.5 row 12: ERR_DIM before ERR_DST. -/
theorem test_encBmp_dim_before_dst :
    statusWord (after (exec .encBmp { image2x2In 64 with width := 0 })) = 0x12 := by decide

/-- P2, step 9: ENC_TGA after ENC_BMP writes 26 bytes and leaves the rest of the BMP container. -/
theorem test_encTga_after_encBmp :
    let t := after (exec .encTga (after (exec .encBmp image2x2)))
    (dstList t).take 30 =
      [0x00, 0x00, 0x02, 0x00, 0x00, 0x00, 0x00, 0x00, 0x00, 0x00, 0x00, 0x00, 0x02, 0x00, 0x02, 0x00, 0x10, 0x20,
       0x00, 0xF8, 0xE0, 0x07, 0x1F, 0x00, 0xFF, 0xFF, 0x01, 0x00, 0x10, 0x00] ∧
    t.outLen = 26 := by decide

/-- 43_encode.md R171: DST_SIZE exactly right is accepted; here one byte less than 18 + 2 * W * H. -/
theorem test_encTga_one_byte_short :
    statusWord (after (exec .encTga (image2x2In 25))) = 0x13 ∧
    statusWord (after (exec .encTga (image2x2In 26))) = 0x00 := by decide

/-! ### Host accesses, against 95_test_vectors.md 2.7 and P5 -/

/-- 2.7: `rdh 0` after ENC_BMP. -/
theorem test_host_rdh :
    (after (step (withEvent (after (exec .encBmp image2x2)) (.access (.read 0x200 2))))).response = some 0x4D42 := by
  decide

/-- 2.7: `rdw 0` after ENC_BMP. -/
theorem test_host_rdw :
    (after (step (withEvent (after (exec .encBmp image2x2)) (.access (.read 0x200 4))))).response = some 0x004E4D42 := by
  decide

/-- 2.7: `rdw 2` is a bus error. -/
theorem test_host_rdw_misaligned :
    (after (step (withEvent image2x2 (.access (.read 0x202 4))))).hostFaults = [.busError 0x202 4] := by decide

/-- O12 of 93_implementation_defined.md: two bytes from DST_BASE - 1, out of the window, are a bus error. -/
theorem test_host_out_of_window :
    let t := after (step (withEvent image2x2 (.access (.read 0x1FF 2))))
    t.hostFaults = [.busError 0x1FF 2] ∧ t.src = image2x2.src ∧ t.host = [] := by decide

/-- P5: a read of DST between `cmd` and `wait` is recorded, and the run goes on. -/
theorem test_host_violation :
    let t := after (step (withEvent { image2x2 with awaiting := true } (.access (.read 0x246 1))))
    t.hostFaults = [.protocolViolation (.read 0x246 1)] ∧ t.awaiting = true := ⟨rfl, rfl⟩

/-- An access that breaks both the protocol and 20_memory.md R54 (log entry 22). -/
theorem test_host_violation_narrow_status_read :
    (after (step (withEvent { image2x2 with awaiting := true } (.access (.read 0x44 1))))).hostFaults =
      [.protocolViolation (.read 0x44 1), .busError 0x44 1] := by rfl

/-- A lone `rd STATUS` does not end the waiting; `wait` does (30_encoding.md R82). -/
theorem test_host_wait :
    (after (step (withEvent { image2x2 with awaiting := true } (.access (.read 0x44 4))))).awaiting = true ∧
    (after (step (withEvent { image2x2 with awaiting := true } .wait))).awaiting = false := ⟨rfl, rfl⟩

/-- The host's row probe: the placed word runs as the first command after reset; ENC_BMP then fails with ERR_DIM (2.5 row 1). -/
theorem test_withFetchWord :
    statusWord (after (step (State.reset.withFetchWord 32 6))) = 0x12 := by decide

/-! ### Witnesses: states and operands that meet a statement's hypotheses together -/

/-- ENC_BMP has run; a STATUS read and more are pending. -/
def encoded : State :=
  { after (exec .encBmp image2x2) with host := [.access (.read 0x44 4), .reset], awaiting := true }

theorem encoded_inv : encoded.Inv :=
  ⟨by decide, by decide, by decide, by decide, by decide, by decide, by decide, by decide, fun _ => by decide⟩

theorem witness_reset_event : (withEvent encoded .reset).host = .reset :: [] := rfl
theorem witness_launch : Safety.launch (withEvent (State.resetOf platform16) .reset) := ⟨by decide, rfl⟩
theorem witness_StepKeepsInvariant : encoded.Inv ∧ step encoded = .next (after (step encoded)) := ⟨encoded_inv, rfl⟩
theorem witness_OnlyResetClearsSticky :
    let s := { encoded with statusSticky := true }
    step s = .next (after (step s)) ∧ s.statusSticky = true ∧ ∀ es, s.host ≠ .reset :: es :=
  ⟨rfl, rfl, fun _ h => by cases h⟩
theorem witness_IllegalWord :
    (0x00000101 : Word).extractLsb' 8 24 ≠ 0 ∧ (0x00000000 : Word).extractLsb' 0 8 = 0 ∧
    8 ≤ ((0x00000008 : Word).extractLsb' 0 8).toNat ∧ 8 ≤ ((0x000000FF : Word).extractLsb' 0 8).toNat := by decide
theorem witness_StepRunsTheDecodedCommand :
    let s := withEvent image2x2 (.access (.write (platform16.regBase + 0x00) 4 0x00000006))
    s.host = .access (.write (s.platform.regBase + 0x00) 4 0x00000006) :: [] ∧ s.awaiting = false ∧
      decode 0x00000006 = .ok .encBmp := ⟨rfl, rfl, rfl⟩
theorem witness_StepOnIllegalWord :
    let s := withEvent image2x2 (.access (.write (platform16.regBase + 0x00) 4 0x00000106))
    s.host = .access (.write (s.platform.regBase + 0x00) 4 0x00000106) :: [] ∧ s.awaiting = false ∧
      decode 0x00000106 = .error .reservedBits := ⟨rfl, rfl, rfl⟩
theorem witness_ReductionTruncates :
    (0x07 : Byte).toNat / 8 = (0x00 : Byte).toNat / 8 ∧ (0x03 : Byte).toNat / 4 = (0x00 : Byte).toNat / 4 ∧
    (0xFF : Byte).toNat / 8 = (0xF8 : Byte).toNat / 8 := by decide
theorem witness_PayloadByteOffsets : 2 < 3 ∧ 0 < 1 := by decide
theorem witness_BmpRows : 2 < 3 := by decide

/-- The clauses on DimOK: W = 0, W = 65536 and W * H = SRC_PIXELS + 1 fail it; W * H = SRC_PIXELS meets it. -/
theorem witness_DimOK_clauses :
    let fails := fun W H : Word => ¬ DimOK 16 (imageW (imageState platform16 W H [])) (imageH (imageState platform16 W H []))
    fails 0 1 ∧ fails 65536 1 ∧ fails 1 0 ∧ fails 17 1 ∧
    DimOK 16 (imageW (imageState platform16 4 4 [])) (imageH (imageState platform16 4 4 [])) := by decide
/-- The clauses on the capacity of DST, at the last size that fits and the first that does not, for outputs of 8, 70, 18, 78
and 26 bytes. -/
theorem witness_capacity_clauses :
    DimOK 16 (imageW image2x2) (imageH image2x2) ∧ LenOK (imageW image2x2) (imageH image2x2) ∧
    [8, 70, 18, 78, 26] =
      [2 * imageW image2x2 * imageH image2x2, 70, 18, 70 + 2 * imageW image2x2 * imageH image2x2,
        18 + 2 * imageW image2x2 * imageH image2x2] ∧
    ∀ n ∈ [8, 70, 18, 78, 26], (image2x2In n).platform.wf ∧ n ≤ (image2x2In n).platform.dstSize ∧
      (image2x2In (n - 1)).platform.dstSize < n := by decide
theorem witness_LenOK_clause :
    DimOK hugeState.platform.srcPixels (imageW hugeState) (imageH hugeState) ∧
    ¬ LenOK (imageW hugeState) (imageH hugeState) := by decide
theorem witness_BmpHeaderNumbers : DimOK 65535 65535 1 ∧ LenOK 65535 1 ∧ DimOK 1 1 1 ∧ LenOK 1 1 := by decide
/-- The last DST size at which each container fits. -/
theorem witness_EncodeIsHeaderThenPayload :
    ∀ n ∈ [78, 26], let s := image2x2In n
      s.platform.wf ∧ DimOK s.platform.srcPixels (imageW s) (imageH s) ∧ Safety.imageWritten s ∧
      n ≤ s.platform.dstSize ∧
      [78, 26] = [70 + 2 * imageW s * imageH s, 18 + 2 * imageW s * imageH s] := by
  unfold Safety.imageWritten; decide
theorem witness_FailedCommand :
    exec .encBmp (image2x2In 77) = .next (after (exec .encBmp (image2x2In 77))) ∧
    (after (exec .encBmp (image2x2In 77))).statusErr ≠ 0 := ⟨rfl, by decide⟩
theorem witness_SuccessfulCommand :
    exec .encBmp image2x2 = .next (after (exec .encBmp image2x2)) ∧
    (after (exec .encBmp image2x2)).statusErr = 0 ∧
    Safety.outputLength .encBmp (imageW image2x2) (imageH image2x2) = some 78 ∧ image2x2.platform.wf :=
  ⟨rfl, by decide, by decide, by decide⟩
theorem witness_EngineReads :
    let s' := { image2x2 with src := cellsFrom 0 [0xFF0000, 0x00FF00, 0x0000FF, 0xFFFFFF, 0x123456], dst := [(0, 7)] }
    image2x2.platform.wf ∧ s' = { image2x2 with src := s'.src, dst := s'.dst } ∧ Safety.imageWritten image2x2 ∧
    (∀ j, j < imageW image2x2 * imageH image2x2 → s'.src.read j = image2x2.src.read j) ∧
    exec .payTga image2x2 = .next (after (exec .payTga image2x2)) :=
  ⟨by decide, rfl, by unfold Safety.imageWritten; decide, by decide, rfl⟩
theorem witness_LengthCheck : 2 ^ 30 ≤ 2 ^ 30 ∧ DimOK (2 ^ 30) 32768 32768 := by decide
/-- First and last address of each window, and an address beside each that lies in none. -/
theorem witness_Windows :
    (∀ a ∈ [0x40, 0x5F], inSpace platform16 .reg a) ∧ (∀ a ∈ [0x100, 0x13F], inSpace platform16 .src a) ∧
    (∀ a ∈ [0x200, 0x27F], inSpace platform16 .dst a) ∧
    (∀ a ∈ [0x3F, 0x60, 0xFF, 0x140, 0x1FF, 0x280], locate platform16 a = none) := by decide
theorem witness_BusError :
    let s := withEvent image2x2 (.access (.read 0x27F 2))
    let u := withEvent encoded (.access (.read 0x1FF 2))
    s.awaiting = false ∧ locate s.platform 0x27F = some (.dst, 0x7F) ∧ ¬ accepts s.platform .dst 0x7F 2 ∧
    u.awaiting = true ∧ locate u.platform 0x1FF = none := by decide
theorem witness_BusError_later :
    let s := { encoded with hostFaults := [.busError 0x202 4] }
    step s = .next (after (step s)) ∧ s.hostFaults ≠ [] := ⟨rfl, by decide⟩
theorem witness_RegisterWrite :
    (withEvent image2x2 (.access (.write (platform16.regBase + regOffset .pixIn) 4 0xFF123456))).awaiting = false ∧
    Reg.pixIn ≠ .cmd := by decide
theorem witness_RegisterRead :
    (withEvent image2x2 (.access (.read (platform16.regBase + regOffset .outLen) 4))).awaiting = false ∧
    encoded.host = .access (.read (platform16.regBase + regOffset .status) 4) :: [.reset] := by decide
/-- The last word of SRC. -/
theorem witness_SrcWriteThenRead :
    let w := HostEvent.access (.write (platform16.srcBase + 4 * 15) 4 0xFF123456)
    let r := HostEvent.access (.read (platform16.srcBase + 4 * 15) 4)
    platform16.wf ∧ image2x2.awaiting = false ∧ 15 < image2x2.platform.srcPixels ∧
    platform16.srcBase + 4 * 15 + 4 = platform16.srcBase + spaceSize platform16 .src ∧
    { image2x2 with host := [w, w] }.host = w :: [w] ∧ { image2x2 with host := [w, r] }.host = w :: r :: [] ∧
    (withEvent image2x2 r).host = r :: [] := by decide
/-- The last byte, half word and word of DST. -/
theorem witness_DstAccesses :
    platform16.wf ∧ image2x2.awaiting = false ∧ accepts platform16 .dst 127 1 ∧ accepts platform16 .dst 126 2 ∧
    accepts platform16 .dst 124 4 := by decide
/-- A word and a byte that nothing has written, read twice; and a command that succeeds. -/
theorem witness_DrawAnew :
    let r := HostEvent.access (.read (platform16.srcBase + 4 * 15) 4)
    let d := HostEvent.access (.read (platform16.dstBase + 127) 1)
    let s := { image2x2 with host := [r, r] }
    let u := { image2x2 with host := [d, d] }
    platform16.wf ∧ s.awaiting = false ∧ 15 < s.platform.srcPixels ∧ s.src.read 15 = none ∧ s.host = r :: r :: [] ∧
    u.awaiting = false ∧ 127 < u.platform.dstSize ∧ u.dst.read 127 = none ∧ u.host = d :: d :: [] := by decide
theorem witness_CommandThenWait :
    let s := { image2x2 with host := programEvents platform16 [.cmdWait .encTga, .rd .outLen] }
    s.awaiting = false ∧
      s.host = programEvents s.platform [.cmdWait .encTga] ++ programEvents s.platform [.rd .outLen] ∧
      (withEvent encoded .wait).host = .wait :: [] := by decide
/-- A command, the operand registers and the last SRC word written, the last DST byte read, and STATUS read too narrowly. -/
theorem witness_AccessBeforeWait :
    ∀ c ∈ [(Access.write 0x40 4 6, Space.reg, 0x00), (.write 0x48 4 1, .reg, 0x08), (.write 0x4C 4 1, .reg, 0x0C),
        (.write 0x50 4 1, .reg, 0x10), (.write 0x13C 4 1, .src, 4 * 15), (.read 0x27F 1, .dst, 127),
        (.read 0x44 1, .reg, 0x04)],
      let s := withEvent { image2x2 with awaiting := true } (.access c.1)
      s.host = .access c.1 :: [] ∧ s.awaiting = true ∧ locate s.platform c.1.address = some c.2 ∧
        ¬ (c.2.1 = .reg ∧ c.2.2 = 0x04 ∧ c.1 = .read c.1.address 4) := by decide
theorem witness_StatementCheck :
    platform16.wf ∧ ∀ st ∈ [Stmt.wpix 15 0, .cmd .encBmp, .rd .status, .wait, .rdb 127, .rdw 127, .cmdWait .red],
      st.inRange platform16 = true := by decide
theorem witness_Conforming :
    let s := { image2x2 with host := programEvents platform16 [.cmdWait .encTga, .rdb 0] }
    Safety.conforming s ∧ step s = .next (after (step s)) ∧ Safety.conforming encoded :=
  ⟨by unfold Safety.conforming; decide, rfl, by unfold Safety.conforming; decide⟩
theorem witness_Refused :
    ¬ Safety.conforming { image2x2 with host := programEvents platform16 [.cmd .encTga, .rd .status, .rdb 0] } := by
  unfold Safety.conforming; decide
theorem witness_RunsToItsEnd :
    let s := { image2x2 with host := programEvents platform16 [.cmdWait .encTga, .rdb 127] }
    Safety.conforming s ∧ s.hostFaults = [] ∧ ∀ a, .access a ∈ s.host →
      ∃ sp off, locate s.platform a.address = some (sp, off) ∧ accepts s.platform sp off a.width := by
  refine ⟨by unfold Safety.conforming; decide, rfl, fun a ha => ?_⟩
  have h : a = .write 0x40 4 7 ∨ a = .read 0x27F 1 := by
    simpa [programEvents, stmtEvents, regWriteAccess, regOffset, cmdOffset, platform16, opcodeOf] using ha
  rcases h with rfl | rfl
  · exact ⟨.reg, 0, rfl, by decide⟩
  · exact ⟨.dst, 127, rfl, by decide⟩
/-- Just below REG, just past DST, and just below DST, with a command awaited and with none. -/
theorem witness_OutsideTheWindows :
    ∀ a ∈ [0x3F, 0x280, 0x1FF], ∀ s ∈ [encoded, image2x2], ∀ sp ∈ [Space.reg, .src, .dst],
      (withEvent s (.access (.read a 2))).host = .access (.read a 2) :: [] ∧
      (a < spaceBase s.platform sp ∨ spaceBase s.platform sp + spaceSize s.platform sp ≤ a) := by decide
theorem witness_Idle : State.reset.host = [] := rfl

end Sys2Proof.Tests
end

section
/-! PROOF. The state's registers and SRC (10_state.md): the reserved bits of STATUS, and what a host access does to a word of SRC. -/

namespace Sys2Proof.Machine

/-! ### STATUS -/

/-- Every bit of a read of STATUS: ERR, STICKY, and 0 elsewhere (10_state.md R23, R29, R35). -/
theorem getLsbD_statusWord (s : State) (k : Nat) :
    (statusWord s).getLsbD k = (s.statusErr.getLsbD k || (decide (k = 4) && s.statusSticky)) := by
  have herr : 4 ≤ k → s.statusErr.getLsbD k = false := BitVec.getLsbD_of_ge _ _
  simp only [statusWord, statusBusy, BitVec.getLsbD_or, BitVec.getLsbD_setWidth, BitVec.getLsbD_shiftLeft,
    BitVec.getLsbD_ofBool]
  rcases Nat.lt_trichotomy k 4 with h | rfl | h
  · simp [h, show k ≠ 4 by omega, show k < 32 by omega]
  · simp
  · simp [herr h.le, show k ≠ 4 by omega, show k - 4 ≠ 0 by omega]

/-- A field of STATUS that lies above STICKY reads 0 (10_state.md R29, R35). -/
theorem extractLsb'_statusWord_of_gt (s : State) (start len : Nat) (h : 4 < start) :
    (statusWord s).extractLsb' start len = 0 := by
  ext k hk
  rw [BitVec.getElem_extractLsb', getLsbD_statusWord, BitVec.getLsbD_of_ge _ _ (by omega)]
  simp [show start + k ≠ 4 by omega]

/-! ### Accepted accesses -/

/-- The offset of an accepted access lies in the window, since no window takes the width 0 (20_memory.md R54). -/
theorem offset_lt_of_accepts {p : Platform} {sp : Space} {off width : Nat} (h : accepts p sp off width) :
    off < spaceSize p sp := by
  obtain ⟨hw, hend⟩ := h
  have hpos : 0 < width := by
    cases sp <;> simp only [widthTaken, decide_eq_true_eq] at hw <;> omega
  omega

/-- On a well-formed platform an accepted offset is found in its window. -/
theorem locate_of_accepts {p : Platform} (hp : p.wf) {sp : Space} {off width : Nat} (h : accepts p sp off width) :
    locate p (spaceBase p sp + off) = some (sp, off) := by
  have hlt := offset_lt_of_accepts h
  rw [locate_of_inSpace hp (sp := sp) ⟨by omega, by omega⟩, Nat.add_sub_cancel_left]

/-- With no command awaited, an access that its window accepts is carried out. -/
theorem step_accepted {s : State} {a : Access} {es : List HostEvent} {sp : Space} {off : Nat}
    (hp : s.platform.wf) (hw : s.awaiting = false) (hh : s.host = .access a :: es)
    (haddr : a.address = spaceBase s.platform sp + off) (ha : accepts s.platform sp off a.width) :
    step s = acceptedAccess sp off a (popHost s) := by
  rw [step_event hh]
  refine hostAccess_accepted ?_ (by simp [hw]) ha
  rw [popHost_platform, haddr, locate_of_accepts hp ha]

theorem popHost_of_host_cons {s : State} {e : HostEvent} {es : List HostEvent} (h : s.host = e :: es) :
    popHost s = { s with host := es } := by
  rw [popHost, h, List.tail_cons]

/-! ### A word of SRC -/

/-- A one-cell write is read back where it was made and changes no other index. -/
theorem read_writeFrom_singleton {w : Nat} (m : Memory w) (a b : Nat) (v : BitVec w) :
    (m.writeFrom a [v]).read b = if b = a then some v else m.read b := by
  rw [read_writeFrom, List.length_singleton]
  by_cases h : b = a
  · subst h; simp
  · rw [if_neg (by omega), if_neg h]

/-- A 32-bit access to a word of SRC is accepted (20_memory.md R54). -/
theorem accepts_src_word {p : Platform} {i : Nat} (h : i < p.srcPixels) : accepts p .src (4 * i) 4 :=
  ⟨by simp [widthTaken], by simp only [spaceSize]; omega⟩

/-- A host write of a word of SRC (10_state.md R31). -/
theorem step_src_write {s : State} {es : List HostEvent} {i : Nat} {v : Word} (hp : s.platform.wf)
    (hw : s.awaiting = false) (hi : i < s.platform.srcPixels)
    (hh : s.host = .access (.write (s.platform.srcBase + 4 * i) 4 v) :: es) :
    step s = .next (respond none (srcWrite i v { s with host := es })) := by
  rw [step_accepted (sp := .src) hp hw hh rfl (accepts_src_word hi), popHost_of_host_cons hh, acceptedAccess,
    if_neg (by simp), hostWrite, Nat.mul_div_cancel_left i (by decide)]

/-- A host read of a word of SRC (10_state.md R31, R32). -/
theorem step_src_read {s : State} {es : List HostEvent} {i : Nat} (hp : s.platform.wf)
    (hw : s.awaiting = false) (hi : i < s.platform.srcPixels)
    (hh : s.host = .access (.read (s.platform.srcBase + 4 * i) 4) :: es) :
    step s = .next (nextDraw (respond (some (srcWord s i)) { s with host := es })) := by
  rw [step_accepted (sp := .src) hp hw hh rfl (accepts_src_word hi), popHost_of_host_cons hh, acceptedAccess,
    hostRead, Nat.mul_div_cancel_left i (by decide)]
  rfl

/-- A pixel word reads 0 in bits 31:24, whether it was written or not. -/
theorem srcWord_toNat_lt (s : State) (i : Nat) : (srcWord s i).toNat < 2 ^ 24 :=
  (BitVec.toNat_setWidth_of_le (by decide)).trans_lt (srcPixel s i).isLt

@[simp] theorem srcWord_respond (r : Option Word) (s : State) (i : Nat) : srcWord (respond r s) i = srcWord s i := rfl

theorem srcWord_of_read {s : State} {i : Nat} {p : Pixel} (h : s.src.read i = some p) :
    srcWord s i = p.setWidth 32 := by
  rw [srcWord, srcPixel, h]

/-- What holding bits 23:0 of a word and reading them zero-extended makes of it. -/
theorem setWidth_pixel_word (v : Word) : (v.setWidth 24).setWidth 32 = v &&& 0x00FFFFFF := by
  refine BitVec.eq_of_toNat_eq ?_
  have hmask : v.toNat &&& 0x00FFFFFF = v.toNat % 2 ^ 24 := Nat.and_two_pow_sub_one_eq_mod v.toNat 24
  have hlt : v.toNat % 2 ^ 24 < 2 ^ 32 := by omega
  rw [BitVec.toNat_setWidth, BitVec.toNat_setWidth, BitVec.toNat_and, Nat.mod_eq_of_lt hlt]
  exact hmask.symm

/-- A word of SRC just written reads as the word with bits 31:24 cleared (10_state.md R31). -/
theorem srcWord_srcWrite (s : State) (i : Nat) (v : Word) : srcWord (srcWrite i v s) i = v &&& 0x00FFFFFF := by
  have hread : (srcWrite i v s).src.read i = some (v.setWidth 24) := by
    rw [srcWrite_src, read_writeFrom_singleton, if_pos rfl]
  rw [srcWord_of_read hread, setWidth_pixel_word]

end Sys2Proof.Machine

open Sys2Proof Sys2Proof.Machine

/-- Settles O46: a write of word `i` followed by a read of it goes through `step_src_write` and `step_src_read`, and the
word read is the one written with bits 31:24 cleared. -/
theorem srcWriteThenReadReturnsLowBits : Obligations.SrcWriteThenReadReturnsLowBits := by
  refine ⟨?write, ?read, ?writeThenRead⟩
  case write =>
    intro s es i v hp hw hi hh
    refine ⟨_, step_src_write hp hw hi hh, rfl, ?_, fun j hj => ?_⟩
    · rw [respond_src, srcWrite_src, read_writeFrom_singleton, if_pos rfl, BitVec.setWidth_eq_extractLsb' (by decide)]
    · rw [respond_src, srcWrite_src, read_writeFrom_singleton, if_neg hj]
  case read =>
    intro s es i hp hw hi hh
    refine ⟨_, _, step_src_read hp hw hi hh, rfl, srcWord_toNat_lt s i, fun p hread => ?_⟩
    rw [srcWord_of_read hread, BitVec.toNat_setWidth_of_le (by decide)]
  case writeThenRead =>
    intro s es i v hp hw hi hh
    refine ⟨_, _, step_src_write hp hw hi hh, step_src_read hp hw hi rfl, ?_⟩
    rw [srcWord_respond, srcWord_srcWrite]
    rfl

/-- Settles O6: both reserved fields of STATUS lie above STICKY, and no write of STATUS or 0x1C stores anything. -/
theorem reservedBitsReadZero : Obligations.ReservedBitsReadZero := fun s _ =>
  ⟨extractLsb'_statusWord_of_gt s 5 3 (by decide), extractLsb'_statusWord_of_gt s 9 23 (by decide), rfl, rfl, rfl⟩

end

section
/-! PROOF. The words that are no command (30_encoding.md R73): the decoder rejects them, whichever of RSV and OPCODE is at fault. -/

namespace Sys2Proof

/-- The opcode table ends at 0x07 (30_encoding.md R72). -/
theorem commandOfOpcode_of_ge {op : Byte} (h : 8 ≤ op.toNat) : commandOfOpcode op = none := by
  unfold commandOfOpcode
  split
  case h_8 => rfl
  all_goals omega

theorem commandOfOpcode_zero : commandOfOpcode 0 = none := rfl

theorem decode_of_rsvField_ne_zero {c : Word} (h : rsvField c ≠ 0) : decode c = .error .reservedBits :=
  if_pos h

/-- A word whose OPCODE selects no command is rejected, whatever its RSV. -/
theorem decode_of_no_command {c : Word} (h : commandOfOpcode (opcodeField c) = none) : ∃ e, decode c = .error e := by
  by_cases hr : rsvField c = 0
  · exact ⟨.opcode, by simp only [decode, hr, h, ne_eq, not_true_eq_false, if_false]⟩
  · exact ⟨.reservedBits, decode_of_rsvField_ne_zero hr⟩

/-- Every word of the three classes of 30_encoding.md R73 is rejected. -/
theorem decode_of_illegal_word {c : Word} (h : rsvField c ≠ 0 ∨ opcodeField c = 0 ∨ 8 ≤ (opcodeField c).toNat) :
    ∃ e, decode c = .error e := by
  rcases h with hrsv | hzero | hge
  · exact ⟨.reservedBits, decode_of_rsvField_ne_zero hrsv⟩
  · exact decode_of_no_command (hzero ▸ commandOfOpcode_zero)
  · exact decode_of_no_command (commandOfOpcode_of_ge hge)

end Sys2Proof

open Sys2Proof Sys2Proof.Machine

/-- Settles O11: the decoder rejects the word, and a rejected word raises ERR_OPCODE, which is all that `raiseErr` changes. -/
theorem illegalWordRaisesErrOpcodeOnly : Obligations.IllegalWordRaisesErrOpcodeOnly := by
  intro c s hillegal
  obtain ⟨e, hreject⟩ := decode_of_illegal_word hillegal
  rw [runCommandWord_error s hreject]
  rfl

end

section
/-! PROOF. The colour reducer (40_reducer.md): the reduction is the concatenation of the channels' top bits, from which its
fields, its value and its preimages follow; the serialization and RED. -/

namespace Sys2Proof.Machine

/-! ### The top bits of a channel -/

/-- A field that reaches the top of a word is the word shifted right: no bit is left for the field's width to cut off. -/
theorem toNat_extractLsb'_of_width_le {w k m : Nat} (c : BitVec w) (h : w ≤ k + m) :
    (c.extractLsb' k m).toNat = c.toNat >>> k := by
  have hlt : c.toNat < 2 ^ k * 2 ^ m := by
    calc c.toNat < 2 ^ w := c.isLt
      _ ≤ 2 ^ (k + m) := Nat.pow_le_pow_right (by decide) h
      _ = 2 ^ k * 2 ^ m := Nat.pow_add 2 k m
  rw [BitVec.extractLsb'_toNat, Nat.shiftRight_eq_div_pow, Nat.mod_eq_of_lt (Nat.div_lt_of_lt_mul hlt)]

/-- A channel shifted and masked is one of its bit fields (40_reducer.md R100). -/
theorem setWidth_shift_mask (c : Byte) (k m : Nat) (h : m ≤ 8) :
    ((c >>> k) &&& BitVec.ofNat 8 (2 ^ m - 1)).setWidth 16 = (c.extractLsb' k m).setWidth 16 := by
  have hmask : 2 ^ m - 1 < 2 ^ 8 := by
    have := Nat.pow_le_pow_right (n := 2) (by decide) h
    omega
  refine BitVec.eq_of_toNat_eq ?_
  rw [BitVec.toNat_setWidth, BitVec.toNat_setWidth, BitVec.toNat_and, BitVec.toNat_ofNat, Nat.mod_eq_of_lt hmask,
    Nat.and_two_pow_sub_one_eq_mod, BitVec.toNat_ushiftRight, BitVec.extractLsb'_toNat]

/-- A field placed at the top of a channel is read back from there (40_reducer.md R103). -/
theorem extractLsb'_setWidth_shiftLeft {k m : Nat} (f : BitVec m) (h : k + m = 8) :
    ((f.setWidth 8 : Byte) <<< k).extractLsb' k m = f := by
  ext i hi
  rw [BitVec.getElem_extractLsb', BitVec.getLsbD_shiftLeft, BitVec.getLsbD_setWidth, Nat.add_sub_cancel_left,
    BitVec.getLsbD_eq_getElem hi]
  simp [show k + i < 8 by omega, show i < 8 by omega]

/-! ### The reduction -/

/-- The masks keep every bit that the shifts leave, and the three shifted fields do not overlap (40_reducer.md R100). -/
theorem reduce565_eq_append (r g b : Byte) :
    reduce565 r g b = r.extractLsb' 3 5 ++ g.extractLsb' 2 6 ++ b.extractLsb' 3 5 := by
  calc reduce565 r g b
      = (r.extractLsb' 3 5).setWidth 16 <<< (6 + 5) ||| (g.extractLsb' 2 6).setWidth 16 <<< 5
          ||| (b.extractLsb' 3 5).setWidth 16 := by
        rw [← setWidth_shift_mask r 3 5 (by decide), ← setWidth_shift_mask g 2 6 (by decide),
          ← setWidth_shift_mask b 3 5 (by decide)]
        rfl
    _ = (r.extractLsb' 3 5 ++ g.extractLsb' 2 6 ++ b.extractLsb' 3 5).setWidth 16 :=
        BitVec.setWidth_append_append_eq_shiftLeft_setWidth_or.symm
    _ = r.extractLsb' 3 5 ++ g.extractLsb' 2 6 ++ b.extractLsb' 3 5 := BitVec.setWidth_eq _

theorem reduce565_redField (r g b : Byte) : (reduce565 r g b).extractLsb' 11 5 = r.extractLsb' 3 5 := by
  rw [reduce565_eq_append, BitVec.append_assoc]
  exact BitVec.extractLsb'_append_eq_left

theorem reduce565_greenField (r g b : Byte) : (reduce565 r g b).extractLsb' 5 6 = g.extractLsb' 2 6 := by
  rw [reduce565_eq_append, BitVec.extractLsb'_append_eq_of_le (by decide)]
  exact BitVec.extractLsb'_append_eq_right

theorem reduce565_blueField (r g b : Byte) : (reduce565 r g b).extractLsb' 0 5 = b.extractLsb' 3 5 := by
  rw [reduce565_eq_append]
  exact BitVec.extractLsb'_append_eq_right

/-- An RGB565 value is its three fields (40_reducer.md R102). -/
theorem P565_eq_append_fields (v : P565) : v.extractLsb' 11 5 ++ v.extractLsb' 5 6 ++ v.extractLsb' 0 5 = v := by
  rw [BitVec.extractLsb'_append_extractLsb'_eq_extractLsb' (show 11 = 5 + 6 from rfl),
    BitVec.extractLsb'_append_extractLsb'_eq_extractLsb' (show 5 = 0 + 5 from rfl)]
  exact BitVec.extractLsb'_eq_self

/-- Each field holds its channel's value with the low bits truncated (40_reducer.md R101, R102). -/
theorem toNat_reduce565 (r g b : Byte) :
    (reduce565 r g b).toNat = r.toNat / 8 * 2 ^ 11 + g.toNat / 4 * 2 ^ 5 + b.toNat / 8 := by
  rw [reduce565_eq_append, BitVec.toNat_append, ← Nat.shiftLeft_add_eq_or_of_lt (BitVec.isLt _), BitVec.toNat_append,
    ← Nat.shiftLeft_add_eq_or_of_lt (BitVec.isLt _)]
  simp only [toNat_extractLsb'_of_width_le r (k := 3) (m := 5) (by decide),
    toNat_extractLsb'_of_width_le g (k := 2) (m := 6) (by decide),
    toNat_extractLsb'_of_width_le b (k := 3) (m := 5) (by decide), Nat.shiftLeft_eq, Nat.shiftRight_eq_div_pow]
  omega

/-- A reduction is recognized by its value. -/
theorem reduce565_eq_iff (r g b : Byte) (v : P565) :
    reduce565 r g b = v ↔ r.toNat / 8 * 2 ^ 11 + g.toNat / 4 * 2 ^ 5 + b.toNat / 8 = v.toNat := by
  rw [← toNat_reduce565, BitVec.toNat_inj]

/-- ReducePix reads only bits 23:0 of its word, which for PIX_IN are the pixel held (40_reducer.md R105). -/
theorem reducePix_setWidth (p : Pixel) :
    reducePix (p.setWidth 32) = reduce565 (p.extractLsb' 16 8) (p.extractLsb' 8 8) (p.extractLsb' 0 8) := by
  rw [reducePix, redField, greenField, blueField, BitVec.extractLsb'_setWidth_of_le (by decide),
    BitVec.extractLsb'_setWidth_of_le (by decide), BitVec.extractLsb'_setWidth_of_le (by decide)]

end Sys2Proof.Machine

open Sys2Proof Sys2Proof.Machine

/-- Settles O16: it is the reduction's equation. -/
theorem reductionIsConcatenationOfTopBits : Obligations.ReductionIsConcatenationOfTopBits := reduce565_eq_append

/-- Settles O15: each field of the concatenation is a channel's top bits, which are the channel shifted right. -/
theorem reductionFieldsAreTruncatedChannels : Obligations.ReductionFieldsAreTruncatedChannels := by
  intro r g b
  rw [reduce565_redField, reduce565_greenField, reduce565_blueField]
  exact ⟨toNat_extractLsb'_of_width_le r (by decide), toNat_extractLsb'_of_width_le g (by decide),
    toNat_extractLsb'_of_width_le b (by decide)⟩

/-- Settles O17: the reduction's value names each channel only through its truncating quotient. -/
theorem reductionTruncatesEachChannel : Obligations.ReductionTruncatesEachChannel := by
  refine ⟨toNat_reduce565, fun r g b r' g' b' hr hg hb => ?_⟩
  rw [reduce565_eq_iff, toNat_reduce565, hr, hg, hb]

/-- Settles O18: the preimage puts each field of `v` where the reduction reads it; the two extremes are compared by value,
where each quotient must be at its least or at its greatest. -/
theorem reductionIsOntoWithItsExtremes : Obligations.ReductionIsOntoWithItsExtremes := by
  refine ⟨fun v => ?preimage, fun r g b => ?zero, fun r g b => ?ones⟩
  case preimage =>
    rw [reduce565_eq_append, extractLsb'_setWidth_shiftLeft _ rfl, extractLsb'_setWidth_shiftLeft _ rfl,
      extractLsb'_setWidth_shiftLeft _ rfl, P565_eq_append_fields]
  case zero =>
    rw [reduce565_eq_iff, show (0x0000 : P565).toNat = 0 from rfl]
    omega
  case ones =>
    have hr := r.isLt
    have hg := g.isLt
    have hb := b.isLt
    rw [reduce565_eq_iff, show (0xFFFF : P565).toNat = 65535 from rfl]
    omega

/-- Settles O19: the low byte is the value modulo 256, and the high byte reaches the top of the value. -/
theorem serializationIsLowByteFirst : Obligations.SerializationIsLowByteFirst := by
  intro v
  have hlow : (v.extractLsb' 0 8).toNat = v.toNat % 256 := BitVec.extractLsb'_toNat 0 8 v
  have hhigh : (v.extractLsb' 8 8).toNat = v.toNat / 256 := by
    rw [toNat_extractLsb'_of_width_le v (by decide), Nat.shiftRight_eq_div_pow]
  rw [ser565, le16, List.map_cons, List.map_singleton, hlow, hhigh]

/-- Settles O20: RED is its one effect and success, which change PIX_OUT and ERR alone. -/
theorem redReducesPixInIntoPixOut : Obligations.RedReducesPixInIntoPixOut := by
  refine ⟨rfl, fun s => ?_⟩
  rw [exec_red, reducePix_setWidth]
  rfl

end

section
/-! PROOF. The row reorderer (41_row_reorder.md): where a pixel's bytes stand in a payload, what a DST-writing command leaves
in DST and everywhere else, and PAY_BMP and PAY_TGA. -/

namespace Sys2Proof.Machine

/-! ### Payloads -/

@[simp] theorem payloadBmp_length (px : Nat → Word) (W H : Nat) : (payloadBmp px W H).length = 2 * W * H := by
  rw [payloadBmp, flatMap_range_length _ (2 * W) H fun k => rowBytes_length px W (H - 1 - k), Nat.mul_comm]

@[simp] theorem payloadTga_length (px : Nat → Word) (W H : Nat) : (payloadTga px W H).length = 2 * W * H := by
  rw [payloadTga, flatMap_range_length _ (2 * W) H fun k => rowBytes_length px W k, Nat.mul_comm]

/-- The two bytes of column `x` in stored row `k`, whichever source row is stored there (41_row_reorder.md R124). -/
theorem storedRows_getElem? (px : Nat → Word) (row : Nat → Nat) {W H k x j : Nat} (hk : k < H) (hx : x < W) (hj : j < 2) :
    ((List.range H).flatMap fun k => rowBytes px W (row k))[2 * (k * W + x) + j]? =
      (ser565 (reducePix (px (row k * W + x))))[j]? := by
  have hpos : 2 * (k * W + x) + j = k * (2 * W) + (2 * x + j) := by ring
  rw [hpos, flatMap_range_getElem? _ (2 * W) H (fun k => rowBytes_length px W (row k)) k _ hk (by omega),
    rowBytes_getElem? px W (row k) x j hx hj]

/-- Bottom-up, source row `y` is stored row `H - 1 - y` (41_row_reorder.md R122). -/
theorem payloadBmp_getElem? (px : Nat → Word) {W H x y j : Nat} (hx : x < W) (hy : y < H) (hj : j < 2) :
    (payloadBmp px W H)[2 * ((H - 1 - y) * W + x) + j]? = (ser565 (reducePix (px (y * W + x))))[j]? := by
  have hrow : H - 1 - (H - 1 - y) = y := by omega
  rw [payloadBmp, storedRows_getElem? px (fun k => H - 1 - k) (by omega) hx hj, hrow]

/-- Top-down, source row `y` is stored row `y` (41_row_reorder.md R123). -/
theorem payloadTga_getElem? (px : Nat → Word) {W H x y j : Nat} (hx : x < W) (hy : y < H) (hj : j < 2) :
    (payloadTga px W H)[2 * (y * W + x) + j]? = (ser565 (reducePix (px (y * W + x))))[j]? :=
  storedRows_getElem? px id hy hx hj

/-- The serialization is the value's little-endian bytes (40_reducer.md R104). -/
theorem ser565_getElem? (v : P565) {k : Nat} (hk : k < 2) :
    (ser565 v)[k]? = some (BitVec.ofNat 8 (v.toNat / 256 ^ k)) := by
  have hbyte : (ser565 v)[k]? = some (v.extractLsb' (8 * k) 8) := by
    interval_cases k <;> rfl
  rw [hbyte, BitVec.extractLsb', Nat.shiftRight_eq_div_pow, Nat.pow_mul]

/-! ### The errors of a DST-writing command -/

theorem failsWith_dim {i : Instr} {s : State} (hi : i ≠ .red)
    (h : ¬ DimOK s.platform.srcPixels (imageW s) (imageH s)) : Safety.failsWith i s 2 :=
  exec_bad_dims hi h

theorem failsWith_dst {i : Instr} {s : State} {n : Nat} (hn : Safety.outputLength i (imageW s) (imageH s) = some n)
    (hd : DimOK s.platform.srcPixels (imageW s) (imageH s))
    (hl : Safety.checksLength i = true → LenOK (imageW s) (imageH s)) (h : s.platform.dstSize < n) :
    Safety.failsWith i s 3 :=
  exec_too_long hn hd hl h

/-! ### The success of a DST-writing command -/

@[simp] theorem emitted_dst (n : Nat) (out : List Byte) (s : State) :
    (emitted n out s).dst = s.dst.writeFrom 0 out := rfl
@[simp] theorem emitted_outLen (n : Nat) (out : List Byte) (s : State) :
    (emitted n out s).outLen = BitVec.ofNat 32 n := rfl

/-- The length that a command's rule gives is the length of what it writes (60_exceptions.md R205). -/
theorem outputBytes_length {i : Instr} {s : State} {n : Nat}
    (h : Safety.outputLength i (imageW s) (imageH s) = some n) : (outputBytes i s).length = n := by
  cases i
  case red => cases h
  all_goals
    cases h
    simp [outputBytes]

/-- Each byte of the output is at its own offset of DST. -/
theorem read_emitted_of_getElem? {n a : Nat} {out : List Byte} {b : Byte} (s : State) (h : out[a]? = some b) :
    (emitted n out s).dst.read a = some b := by
  obtain ⟨hlt, -⟩ := List.getElem?_eq_some_iff.1 h
  rw [emitted_dst, read_writeFrom, if_pos (by omega), Nat.sub_zero, h]

/-- An output whose length OUT_LEN can hold leaves everything else alone (10_state.md R28, R33). -/
theorem wroteOutput_emitted {n : Nat} {out : List Byte} (s : State) (hlen : out.length = n) (hn : n < 2 ^ 32) :
    Safety.wroteOutput s (emitted n out s) n := by
  refine ⟨rfl, ?outLen, fun a ha => ?frame⟩
  case outLen => rw [emitted_outLen, BitVec.toNat_ofNat, Nat.mod_eq_of_lt hn]
  case frame => rw [emitted_dst, read_writeFrom_of_le _ _ _ _ (by omega)]

/-- A command that passes its checks writes its output; a well-formed platform's DST keeps the length in 32 bits
(00_scope.md R10). -/
theorem exec_wroteOutput {i : Instr} {s : State} {n : Nat} (hp : s.platform.wf)
    (hn : Safety.outputLength i (imageW s) (imageH s) = some n)
    (hd : DimOK s.platform.srcPixels (imageW s) (imageH s))
    (hl : Safety.checksLength i = true → LenOK (imageW s) (imageH s)) (hfit : n ≤ s.platform.dstSize) :
    exec i s = .next (emitted n (outputBytes i s) s) ∧ Safety.wroteOutput s (emitted n (outputBytes i s) s) n := by
  obtain ⟨-, ⟨-, hdst⟩, -, -⟩ := hp
  exact ⟨exec_fits hn hd hl hfit, wroteOutput_emitted s (outputBytes_length hn) (by omega)⟩

/-- An output that has every pixel's two bytes at its place leaves the image in DST: the pixel read is the one held or, where
none was written, the free value drawn (10_state.md R32). -/
theorem holdsImage_emitted {s : State} {n base : Nat} {out : List Byte} {pos : Nat → Nat → Nat}
    (h : ∀ x y k, x < imageW s → y < imageH s → k < 2 →
      out[base + 2 * pos x y + k]? = (ser565 (reducePix (srcWord s (y * imageW s + x))))[k]?) :
    Safety.holdsImage s (emitted n out s).dst base pos := by
  intro x y hx hy
  refine ⟨srcPixel s (y * imageW s + x), fun p hread => ?held, fun k hk => ?bytes⟩
  case held => rw [srcPixel, hread]
  case bytes =>
    refine read_emitted_of_getElem? s ?_
    rw [h x y k hx hy hk, ser565_getElem? _ hk, srcWord, reducePix_setWidth]

/-- A command that passes its checks leaves in DST the image that its output holds, and nothing else changes. -/
theorem exec_writesImage {i : Instr} {s : State} {n base : Nat} {pos : Nat → Nat → Nat} (hp : s.platform.wf)
    (hn : Safety.outputLength i (imageW s) (imageH s) = some n)
    (hd : DimOK s.platform.srcPixels (imageW s) (imageH s))
    (hl : Safety.checksLength i = true → LenOK (imageW s) (imageH s)) (hfit : n ≤ s.platform.dstSize)
    (himage : ∀ x y k, x < imageW s → y < imageH s → k < 2 →
      (outputBytes i s)[base + 2 * pos x y + k]? = (ser565 (reducePix (srcWord s (y * imageW s + x))))[k]?) :
    ∃ t, exec i s = .next t ∧ Safety.holdsImage s t.dst base pos ∧ Safety.wroteOutput s t n := by
  obtain ⟨hexec, hwrote⟩ := exec_wroteOutput hp hn hd hl hfit
  exact ⟨_, hexec, holdsImage_emitted himage, hwrote⟩

end Sys2Proof.Machine

open Sys2Proof Sys2Proof.Machine

/-- Settles O21: a payload is H rows of 2 * W bytes. -/
theorem payloadsAreTwoBytesPerPixel : Obligations.PayloadsAreTwoBytesPerPixel := fun px W H =>
  ⟨payloadBmp_length px W H, payloadTga_length px W H⟩

/-- Settles O22: the two bytes of a pixel are the serialization of its reduction, at the pixel's place in each payload. -/
theorem payloadByteOffsetsOfEachPixel : Obligations.PayloadByteOffsetsOfEachPixel := fun px _ _ _ _ hx hy =>
  ⟨payloadBmp_getElem? px hx hy (j := 0) (by decide), payloadBmp_getElem? px hx hy (j := 1) (by decide),
    payloadTga_getElem? px hx hy (j := 0) (by decide), payloadTga_getElem? px hx hy (j := 1) (by decide)⟩

/-- Settles O24: the errors and the frame are those of every DST-writing command; the image stands as in the BMP payload,
which is the whole output. -/
theorem payBmpWritesBottomUpPayload : Obligations.PayBmpWritesBottomUpPayload := by
  refine ⟨rfl, fun s => ⟨failsWith_dim (by decide), fun hd => failsWith_dst rfl hd nofun, fun hp hd hfit =>
    exec_writesImage hp rfl hd nofun hfit fun x y k hx hy hk => ?_⟩⟩
  rw [Nat.zero_add]
  exact payloadBmp_getElem? (srcWord s) hx hy hk

/-- Settles O25: as PAY_BMP, with the TGA payload as the whole output. -/
theorem payTgaWritesTopDownPayload : Obligations.PayTgaWritesTopDownPayload := by
  refine ⟨rfl, fun s => ⟨failsWith_dim (by decide), fun hd => failsWith_dst rfl hd nofun, fun hp hd hfit =>
    exec_writesImage hp rfl hd nofun hfit fun x y k hx hy hk => ?_⟩⟩
  rw [Nat.zero_add]
  exact payloadTga_getElem? (srcWord s) hx hy hk

end

section
/-! PROOF. The header builders (42_headers.md): a header is the bytes of its table's fields one after another, from which its
numbers and what HDR_BMP and HDR_TGA leave in DST follow. -/

namespace Sys2Proof.Machine

/-! ### Little-endian fields -/

/-- The `n` bytes of a header field of value `v`, the low byte first (00_scope.md R14). -/
def fieldBytes : (n v : Nat) → List Byte
  | 0, _ => []
  | n + 1, v => BitVec.ofNat 8 v :: fieldBytes n (v / 256)

@[simp] theorem fieldBytes_length (n v : Nat) : (fieldBytes n v).length = n := by
  induction n generalizing v with
  | zero => rfl
  | succ n ih => simp [fieldBytes, ih]

theorem fieldBytes_getElem? {n k : Nat} (v : Nat) (hk : k < n) :
    (fieldBytes n v)[k]? = some (BitVec.ofNat 8 (v / 256 ^ k)) := by
  induction n generalizing v k with
  | zero => omega
  | succ n ih =>
    cases k with
    | zero => simp [fieldBytes]
    | succ k => rw [fieldBytes, List.getElem?_cons_succ, ih _ (by omega), Nat.div_div_eq_div_mul, Nat.pow_succ']

/-- A value that fits its field is read back. -/
theorem leNat_fieldBytes {n v : Nat} (h : v < 256 ^ n) : leNat (fieldBytes n v) = v := by
  induction n generalizing v with
  | zero => rw [fieldBytes, leNat]; omega
  | succ n ih =>
    have hrest : v / 256 < 256 ^ n := Nat.div_lt_of_lt_mul (by rwa [← Nat.pow_succ'])
    rw [fieldBytes, leNat, ih hrest, BitVec.toNat_ofNat]
    omega

/-- A byte inside a word is a byte of the number the word was made from: cutting the number to the word loses none of it. -/
theorem extractLsb'_ofNat {w m k : Nat} (v : Nat) (h : m + k ≤ w) :
    (BitVec.ofNat w v).extractLsb' m k = BitVec.ofNat k (v / 2 ^ m) := by
  refine BitVec.eq_of_getLsbD_eq fun j hj => ?_
  have hin : m + j < w := by omega
  simp only [BitVec.getLsbD_extractLsb', BitVec.getLsbD_ofNat, hj, hin, decide_true, Bool.true_and,
    Nat.testBit_div_two_pow, Nat.add_comm]

theorem le32_ofNat (v : Nat) : le32 (BitVec.ofNat 32 v) = fieldBytes 4 v := by
  simp [le32, fieldBytes, extractLsb'_ofNat, Nat.div_div_eq_div_mul]

theorem le16_ofNat (v : Nat) : le16 (BitVec.ofNat 16 v) = fieldBytes 2 v := by
  simp [le16, fieldBytes, extractLsb'_ofNat]

/-! ### Header tables -/

/-- The bytes of a table's fields, one after another. -/
def tableBytes : List (Nat × Nat × Nat) → List Byte
  | [] => []
  | f :: fs => fieldBytes f.2.1 f.2.2 ++ tableBytes fs

/-- Each field of the table begins where the one before it ends, the first at offset `a`. -/
def contiguousFrom : (a : Nat) → List (Nat × Nat × Nat) → Prop
  | _, [] => True
  | a, f :: fs => f.1 = a ∧ contiguousFrom (a + f.2.1) fs

/-- The bytes of a table without gaps hold each field at its offset, counted from the table's first. -/
theorem tableBytes_drop_take {a : Nat} {fields : List (Nat × Nat × Nat)} {f : Nat × Nat × Nat}
    (hc : contiguousFrom a fields) (hf : f ∈ fields) :
    ∃ d, f.1 = a + d ∧ ((tableBytes fields).drop d).take f.2.1 = fieldBytes f.2.1 f.2.2 := by
  induction fields generalizing a with
  | nil => cases hf
  | cons g gs ih =>
    obtain ⟨hg, hgs⟩ := hc
    rcases List.mem_cons.1 hf with rfl | hf
    · exact ⟨0, hg, by simp [tableBytes]⟩
    · obtain ⟨d, hd, hbytes⟩ := ih hgs hf
      refine ⟨g.2.1 + d, by omega, ?_⟩
      rw [tableBytes, ← List.drop_drop, List.drop_left' (fieldBytes_length _ _), hbytes]

theorem tableBytes_field {fields : List (Nat × Nat × Nat)} {f : Nat × Nat × Nat}
    (hc : contiguousFrom 0 fields) (hf : f ∈ fields) :
    ((tableBytes fields).drop f.1).take f.2.1 = fieldBytes f.2.1 f.2.2 := by
  obtain ⟨d, hd, hbytes⟩ := tableBytes_drop_take hc hf
  rwa [hd, Nat.zero_add]

/-- An output that begins with the bytes of a table leaves its fields in DST. -/
theorem holdsFields_emitted {n : Nat} {out : List Byte} {fields : List (Nat × Nat × Nat)} (s : State)
    (hc : contiguousFrom 0 fields) (hpre : tableBytes fields <+: out) :
    Safety.holdsFields (emitted n out s).dst fields := by
  intro f hf k hk
  have hbyte : (tableBytes fields)[f.1 + k]? = some (BitVec.ofNat 8 (f.2.2 / 256 ^ k)) := by
    rw [← List.getElem?_drop, ← List.getElem?_take_of_lt hk, tableBytes_field hc hf, fieldBytes_getElem? _ hk]
  obtain ⟨hlt, hvalue⟩ := List.getElem?_eq_some_iff.1 hbyte
  exact read_emitted_of_getElem? s (hvalue ▸ List.prefix_iff_getElem?.1 hpre _ hlt)

/-! ### The two headers -/

theorem bmpFields_contiguous (W H : Nat) : contiguousFrom 0 (Safety.bmpFields W H) := by
  simp [Safety.bmpFields, contiguousFrom]

theorem tgaFields_contiguous (W H : Nat) : contiguousFrom 0 (Safety.tgaFields W H) := by
  simp [Safety.tgaFields, contiguousFrom]

/-- The BMP header is its table (42_headers.md R140, R141). -/
theorem bmpHeader_eq_tableBytes (W H : Nat) : bmpHeader W H = tableBytes (Safety.bmpFields W H) := by
  simp only [bmpHeader, payloadLen, le32_ofNat, Safety.bmpFields, tableBytes, List.append_assoc, List.append_nil]
  rfl

/-- The TGA header is its table (42_headers.md R151, R154). -/
theorem tgaHeader_eq_tableBytes (W H : Nat) : tgaHeader W H = tableBytes (Safety.tgaFields W H) := by
  simp only [tgaHeader, le16_ofNat]
  rfl

/-- The number at a field's place in the BMP header is the field's value, where that fits. -/
theorem leNat_bmpHeader_field {W H : Nat} {a n v : Nat} (hf : (a, n, v) ∈ Safety.bmpFields W H) (hv : v < 256 ^ n) :
    leNat (((bmpHeader W H).drop a).take n) = v := by
  rw [bmpHeader_eq_tableBytes, tableBytes_field (bmpFields_contiguous W H) hf, leNat_fieldBytes hv]

/-! ### The length check -/

/-- On a platform within 00_scope.md R10's bound the length check adds nothing to DimOK (60_exceptions.md R204). -/
theorem lenOK_of_dimOK {srcPixels W H : Nat} (hp : srcPixels ≤ 2 ^ 30) (hd : DimOK srcPixels W H) : LenOK W H := by
  obtain ⟨-, -, hsize⟩ := hd
  rw [LenOK, Nat.mul_assoc]
  omega

theorem lenOK_of_wf {p : Platform} {W H : Nat} (hp : p.wf) (hd : DimOK p.srcPixels W H) : LenOK W H := by
  obtain ⟨⟨-, hsrc⟩, -, -, -⟩ := hp
  exact lenOK_of_dimOK (by omega) hd

theorem withDims_bad_length {c : Bool} {k : Nat → Nat → Result} {s : State} (hc : c = true)
    (hd : DimOK s.platform.srcPixels (imageW s) (imageH s)) (hl : ¬ LenOK (imageW s) (imageH s)) :
    withDims c k s = .next (raiseErr .dim s) := by
  rw [withDims, if_neg (not_not.2 hd), if_pos ⟨hc, hl⟩]

theorem failsWith_len {i : Instr} {s : State} (hc : Safety.checksLength i = true)
    (hd : DimOK s.platform.srcPixels (imageW s) (imageH s)) (hl : ¬ LenOK (imageW s) (imageH s)) :
    Safety.failsWith i s 2 := by
  have hi : i ≠ .red := by
    rintro rfl
    cases hc
  obtain ⟨n, hn⟩ := outputLength_isSome hi (imageW s) (imageH s)
  rw [Safety.failsWith, exec_eq_emitOutput s hn, withDims_bad_length hc hd hl]
  rfl

/-! ### What a header leaves in DST -/

/-- A command that passes its checks leaves in DST the table its output begins with, and nothing else changes. -/
theorem exec_writesFields {i : Instr} {s : State} {n : Nat} {fields : List (Nat × Nat × Nat)} (hp : s.platform.wf)
    (hn : Safety.outputLength i (imageW s) (imageH s) = some n)
    (hd : DimOK s.platform.srcPixels (imageW s) (imageH s))
    (hl : Safety.checksLength i = true → LenOK (imageW s) (imageH s)) (hfit : n ≤ s.platform.dstSize)
    (hc : contiguousFrom 0 fields) (hpre : tableBytes fields <+: outputBytes i s) :
    ∃ t, exec i s = .next t ∧ Safety.holdsFields t.dst fields ∧ Safety.wroteOutput s t n := by
  obtain ⟨hexec, hwrote⟩ := exec_wroteOutput hp hn hd hl hfit
  exact ⟨_, hexec, holdsFields_emitted s hc hpre, hwrote⟩

end Sys2Proof.Machine

open Sys2Proof Sys2Proof.Machine

/-- Settles O26: none of these ranges touches a field that depends on W or H, so the header evaluates there. -/
theorem bmpHeaderFixedBytes : Obligations.BmpHeaderFixedBytes := by
  intro W H
  refine ⟨bmpHeader_length W H, ?_, ?_, ?_, ?_, ?_⟩
  all_goals simp [bmpHeader, asciiBM, le32, le16]

/-- Settles O27: each number is a field of the header's table, and the checks keep its value in the field's four bytes. -/
theorem bmpHeaderNumbersAreTheLengths : Obligations.BmpHeaderNumbersAreTheLengths := by
  intro px p W H hdim hlen
  obtain ⟨⟨-, hW⟩, ⟨-, hH⟩, -⟩ := hdim
  rw [List.length_append, bmpHeader_length, payloadBmp_length]
  refine ⟨?fileSize, ?dataSize, ?dataOffset, ?width, ?height⟩
  all_goals
    refine leNat_bmpHeader_field ?inTable ?fits
    case inTable => simp [Safety.bmpFields]
    case fits => omega

/-- Settles O28: the errors and the frame are those of every DST-writing command; LenOK, which R155 checks too, holds on a
well-formed platform; the output is the header, which is its table. -/
theorem hdrBmpWritesTheHeaderTable : Obligations.HdrBmpWritesTheHeaderTable := by
  refine ⟨rfl, fun s => ⟨failsWith_dim (by decide), failsWith_len rfl, fun hd hl => failsWith_dst rfl hd fun _ => hl,
    fun hp hd hfit => ?_⟩⟩
  exact exec_writesFields hp rfl hd (fun _ => lenOK_of_wf hp hd) hfit (bmpFields_contiguous _ _)
    (bmpHeader_eq_tableBytes _ _ ▸ List.prefix_rfl)

/-- Settles O29: as HDR_BMP, with no length check and the TGA header's table. -/
theorem hdrTgaWritesTheHeaderTable : Obligations.HdrTgaWritesTheHeaderTable := by
  refine ⟨rfl, fun s => ⟨failsWith_dim (by decide), fun hd => failsWith_dst rfl hd nofun, fun hp hd hfit => ?_⟩⟩
  exact exec_writesFields hp rfl hd nofun hfit (tgaFields_contiguous _ _)
    (tgaHeader_eq_tableBytes _ _ ▸ List.prefix_rfl)

end

section
/-! PROOF. The containers (43_encode.md): an output that is a header's table followed at once by a payload leaves both in DST, and
ENC_BMP and ENC_TGA. -/

namespace Sys2Proof.Machine

/-- A command that passes its checks and whose output is a header followed at once by a payload leaves in DST the header's
table and, from its end on, the image that the payload holds, and nothing else changes. -/
theorem exec_writesContainer {i : Instr} {s : State} {n base : Nat} {fields : List (Nat × Nat × Nat)}
    {header payload : List Byte} {pos : Nat → Nat → Nat} (hp : s.platform.wf)
    (hn : Safety.outputLength i (imageW s) (imageH s) = some n)
    (hd : DimOK s.platform.srcPixels (imageW s) (imageH s))
    (hl : Safety.checksLength i = true → LenOK (imageW s) (imageH s)) (hfit : n ≤ s.platform.dstSize)
    (hout : outputBytes i s = header ++ payload) (hbase : header.length = base)
    (hc : contiguousFrom 0 fields) (htable : header = tableBytes fields)
    (himage : ∀ x y k, x < imageW s → y < imageH s → k < 2 →
      payload[2 * pos x y + k]? = (ser565 (reducePix (srcWord s (y * imageW s + x))))[k]?) :
    ∃ t, exec i s = .next t ∧ Safety.holdsFields t.dst fields ∧ Safety.holdsImage s t.dst base pos ∧
      Safety.wroteOutput s t n := by
  obtain ⟨hexec, hwrote⟩ := exec_wroteOutput hp hn hd hl hfit
  refine ⟨_, hexec, holdsFields_emitted s hc ?header, holdsImage_emitted fun x y k hx hy hk => ?image, hwrote⟩
  case header => exact hout ▸ htable ▸ List.prefix_append header payload
  case image =>
    rw [hout, ← hbase, Nat.add_assoc, List.getElem?_append_right (Nat.le_add_right _ _), Nat.add_sub_cancel_left,
      himage x y k hx hy hk]

end Sys2Proof.Machine

open Sys2Proof Sys2Proof.Machine

/-- Settles O30: the errors and the frame are those of every DST-writing command; the output is the BMP header and the bottom-up
payload; the two size fields are fields of the header's table, whose values OUT_LEN gives. -/
theorem encBmpWritesTheWholeContainer : Obligations.EncBmpWritesTheWholeContainer := by
  refine ⟨rfl, fun s => ⟨failsWith_dim (by decide), failsWith_len rfl, fun hd hl => failsWith_dst rfl hd fun _ => hl,
    fun hp hd hfit => ?_⟩⟩
  obtain ⟨t, hexec, hfields, himage, hframe, houtLen, hbeyond⟩ := exec_writesContainer (i := .encBmp)
    (pos := Safety.bottomUp s) hp rfl hd (fun _ => lenOK_of_wf hp hd) hfit rfl (bmpHeader_length _ _)
    (bmpFields_contiguous _ _) (bmpHeader_eq_tableBytes _ _)
    fun x y k hx hy hk => payloadBmp_getElem? (srcWord s) hx hy hk
  refine ⟨t, hexec, hfields, himage, ?fileSize, ?dataSize, hframe, houtLen, hbeyond⟩
  case fileSize =>
    rw [houtLen]
    exact hfields (2, 4, 70 + 2 * imageW s * imageH s) (by simp [Safety.bmpFields])
  case dataSize =>
    rw [houtLen, Nat.add_sub_cancel_left]
    exact hfields (34, 4, 2 * imageW s * imageH s) (by simp [Safety.bmpFields])

/-- Settles O31: as ENC_BMP, with no length check, the TGA header's table and the top-down payload. -/
theorem encTgaWritesTheWholeContainer : Obligations.EncTgaWritesTheWholeContainer := by
  refine ⟨rfl, fun s => ⟨failsWith_dim (by decide), fun hd => failsWith_dst rfl hd nofun, fun hp hd hfit => ?_⟩⟩
  exact exec_writesContainer hp rfl hd nofun hfit rfl (tgaHeader_length _ _) (tgaFields_contiguous _ _)
    (tgaHeader_eq_tableBytes _ _) fun x y k hx hy hk => payloadTga_getElem? (srcWord s) hx hy hk

end

section
/-! PROOF. The errors of commands (60_exceptions.md R202, R206): which check a command reports, and what a failed one changes. -/

namespace Sys2Proof.Machine

/-- RED has no check. Every other command stops at the first of its checks that fails, and succeeds when none does: one case
for each check of 60_exceptions.md R202, in its order. -/
theorem exec_reports_firstError (i : Instr) (s : State) :
    ∃ t, exec i s = .next t ∧ t.statusErr = Safety.firstError i s := by
  by_cases hi : i = .red
  · subst hi
    exact ⟨_, exec_red s, rfl⟩
  obtain ⟨n, hn⟩ := outputLength_isSome hi (imageW s) (imageH s)
  simp only [Safety.firstError, hn]
  by_cases hd : DimOK s.platform.srcPixels (imageW s) (imageH s)
  case neg => exact ⟨_, failsWith_dim hi hd, (if_pos hd).symm⟩
  rw [if_neg (not_not.2 hd)]
  by_cases hl : Safety.checksLength i = true ∧ ¬ LenOK (imageW s) (imageH s)
  case pos => exact ⟨_, failsWith_len hl.1 hd hl.2, (if_pos hl).symm⟩
  rw [if_neg hl]
  have hlen : Safety.checksLength i = true → LenOK (imageW s) (imageH s) := not_and_not_right.1 hl
  by_cases hfit : s.platform.dstSize < n
  · exact ⟨_, failsWith_dst hn hd hlen hfit, (if_pos hfit).symm⟩
  · exact ⟨_, exec_fits hn hd hlen (not_lt.1 hfit), (if_neg hfit).symm⟩

/-- The one way a command ends with an error is the block's error action (60_exceptions.md R206). -/
theorem exec_error_eq_raiseErr {i : Instr} {s t : State} (h : exec i s = .next t) (herr : t.statusErr ≠ 0) :
    ∃ e, t = raiseErr e s := by
  obtain ⟨-, rfl⟩ | ⟨-, rfl⟩ | ⟨-, -, -, rfl⟩ | ⟨n, -, -, -, rfl⟩ := exec_cases h
  · exact absurd (succeed_statusErr _) herr
  · exact ⟨.dim, rfl⟩
  · exact ⟨.dst, rfl⟩
  · exact absurd (succeed_statusErr _) herr

end Sys2Proof.Machine

open Sys2Proof Sys2Proof.Machine

/-- Settles O33: a word that is no command raises ERR_OPCODE; a command reports the first of its own checks that fails. -/
theorem commandReportsItsFirstFailedCheck : Obligations.CommandReportsItsFirstFailedCheck := by
  intro c s
  cases hdecode : decode c with
  | error e => exact ⟨_, runCommandWord_error s hdecode, rfl⟩
  | ok i =>
    rw [runCommandWord_ok s hdecode]
    exact exec_reports_firstError i s

/-- Settles O34: a failed command's state is the one `raiseErr` leaves, which differs in ERR and STICKY alone. -/
theorem failedCommandChangesStatusOnly : Obligations.FailedCommandChangesStatusOnly := by
  intro i s t hexec herr
  obtain ⟨e, rfl⟩ := exec_error_eq_raiseErr hexec herr
  rfl

end

section
/-! PROOF. Reset and hazards (70_reset_and_hazards.md): what reset leaves, that nothing else clears STICKY, and that every command
ends. -/

namespace Sys2Proof.Machine

/-! ### What reset leaves -/

/-- A reset of the launch state changes nothing: the two have the same effect (70_reset_and_hazards.md R230). -/
theorem resetBlock_resetOf (p : Platform) : resetBlock (State.resetOf p) = State.resetOf p := rfl

/-- After a reset every register of the window reads 0 (70_reset_and_hazards.md R230). -/
theorem regRead_resetBlock (r : Reg) (s : State) : regRead r (resetBlock s) = 0 := by
  cases r
  case status => simp [regRead, statusWord, statusBusy]
  all_goals rfl

theorem step_reset {s : State} {es : List HostEvent} (h : s.host = .reset :: es) :
    step s = .next (resetBlock (popHost s)) := step_event h

/-! ### STICKY -/

@[simp] theorem hostRead_statusSticky (sp : Space) (off width : Nat) (s : State) :
    (hostRead sp off width s).statusSticky = s.statusSticky := by
  rw [hostRead_frame]

@[simp] theorem hostWrite_statusSticky (sp : Space) (off width : Nat) (v : Word) (s : State) :
    (hostWrite sp off width v s).statusSticky = s.statusSticky := by
  rw [hostWrite_frame]

@[simp] theorem hostWait_statusSticky (s : State) : (hostWait s).statusSticky = s.statusSticky := rfl

@[simp] theorem emitted_statusSticky (n : Nat) (out : List Byte) (s : State) :
    (emitted n out s).statusSticky = s.statusSticky := rfl

/-- A command sets STICKY with an error and leaves it as it was without one (60_exceptions.md R206, R207). -/
theorem exec_keeps_sticky {i : Instr} {s t : State} (h : exec i s = .next t) (hs : s.statusSticky = true) :
    t.statusSticky = true := by
  obtain ⟨-, rfl⟩ | ⟨-, rfl⟩ | ⟨-, -, -, rfl⟩ | ⟨n, -, -, -, rfl⟩ := exec_cases h
  · exact hs
  · exact raiseErr_statusSticky s .dim
  · exact raiseErr_statusSticky s .dst
  · exact (emitted_statusSticky n _ s).trans hs

theorem runCommandWord_keeps_sticky {c : Word} {s t : State} (h : runCommandWord c s = .next t)
    (hs : s.statusSticky = true) : t.statusSticky = true := by
  obtain ⟨i, -, hexec⟩ | ⟨-, rfl⟩ := runCommandWord_cases h
  · exact exec_keeps_sticky hexec hs
  · exact raiseErr_statusSticky s .opcode

theorem acceptedAccess_keeps_sticky {sp : Space} {off : Nat} {a : Access} {s t : State}
    (h : acceptedAccess sp off a s = .next t) (hs : s.statusSticky = true) : t.statusSticky = true := by
  obtain ⟨-, w, -, rfl⟩ | ⟨-, -, v, -, -, -, hrun⟩ | ⟨-, w, v, -, -, rfl⟩ := acceptedAccess_cases h
  · rw [hostRead_statusSticky, hs]
  · exact runCommandWord_keeps_sticky hrun hs
  · rw [hostWrite_statusSticky, hs]

/-- Whatever an access does: a bus error changes no state of the block (20_memory.md R55), and a protocol violation leaves every
result of a command open but does not clear STICKY (70_reset_and_hazards.md R231, R240). -/
theorem hostAccess_keeps_sticky {a : Access} {s t : State} (h : hostAccess a s = .next t)
    (hs : s.statusSticky = true) : t.statusSticky = true := by
  obtain ⟨-, rfl⟩ | ⟨sp, off, -, ⟨-, -, rfl⟩ | ⟨-, ⟨-, rfl⟩ | ⟨-, haccepted⟩⟩⟩ := hostAccess_cases h
  · exact hs
  · obtain ⟨-, -, -, hsticky, -, -⟩ := violation_frame sp off a s
    exact hsticky hs
  · exact hs
  · exact acceptedAccess_keeps_sticky haccepted hs

end Sys2Proof.Machine

open Sys2Proof Sys2Proof.Machine

/-- Settles O5: one case for each event of a step; reset is the one that the premise excludes. -/
theorem onlyResetClearsSticky : Obligations.OnlyResetClearsSticky := by
  intro s t hstep hs hreset
  obtain ⟨-, rfl⟩ | ⟨es, hevent, -⟩ | ⟨-, -, rfl⟩ | ⟨a, -, -, haccess⟩ := step_cases hstep
  · exact hs
  · exact absurd hevent (hreset es)
  · rw [hostWait_statusSticky, popHost_statusSticky, hs]
  · exact hostAccess_keeps_sticky haccess hs

/-- Settles O1: the step is `resetBlock`, which the launch state is a fixed point of. -/
theorem resetZeroesRegistersAndForgetsMemories : Obligations.ResetZeroesRegistersAndForgetsMemories := by
  refine ⟨fun s es hevent => ?reset, fun p => ?powerOn⟩
  case reset =>
    exact ⟨_, step_reset hevent, fun r => regRead_resetBlock r _, rfl, rfl, rfl, rfl, rfl, rfl, rfl, read_nil, read_nil, rfl⟩
  case powerOn =>
    exact ⟨fun r => resetBlock_resetOf p ▸ regRead_resetBlock r _, read_nil, read_nil, rfl⟩

/-- Settles O14: the next state is the one whose ERR the command's checks give. -/
theorem everyCommandEnds : Obligations.EveryCommandEnds := fun s =>
  ⟨fun i => (exec_reports_firstError i s).imp fun _ ⟨hexec, _⟩ => hexec,
    fun c => (commandReportsItsFirstFailedCheck c s).imp fun _ ⟨hrun, _⟩ => hrun⟩

end

section
/-! PROOF. The machine's invariant: the launch state meets `State.Inv`, every update of the state keeps it, and so does every step. -/

namespace Sys2Proof.Machine

/-! ### Updates of the state -/

/-- The invariant speaks of the platform, the two memories, STATUS, OUT_LEN and the recorded violations alone, and asks no more
of a state with more violations. -/
theorem State.Inv.of_frame {s t : State} (h : s.Inv)
    (hframe : t = { s with
      width := t.width, height := t.height, pixIn := t.pixIn, pixOut := t.pixOut, hostFaults := t.hostFaults,
      awaiting := t.awaiting, host := t.host, response := t.response, draws := t.draws })
    (hfaults : s.hostFaults ⊆ t.hostFaults) : t.Inv := by
  rw [hframe]
  exact { h with out_written := fun hv => h.out_written fun ⟨a, ha⟩ => hv ⟨a, hfaults ha⟩ }

/-- Every code that is ever written (60_exceptions.md R201). -/
theorem errValue_toNat_le (e : ErrCode) : (errValue e).toNat ≤ 3 := by
  cases e <;> decide

theorem raiseErr_keeps_inv {s : State} (h : s.Inv) (e : ErrCode) : (raiseErr e s).Inv :=
  { h with
    err_le := errValue_toNat_le e
    err_sticky := fun _ => rfl }

theorem succeed_keeps_inv {s : State} (h : s.Inv) : (succeed s).Inv :=
  { h with
    err_le := errValue_toNat_le .ok
    err_sticky := fun hne => absurd rfl hne }

theorem srcWrite_keeps_inv {s : State} {i : Nat} (h : s.Inv) (v : Word) (hi : i < s.platform.srcPixels) :
    (srcWrite i v s).Inv :=
  { h with
    src_wf := writeFrom_wf _ _ _ h.src_wf
    src_below := writeFrom_below _ _ _ _ h.src_below hi }

/-- A write specifies every cell it writes. -/
theorem isSome_read_writeFrom_of_mem {w : Nat} (m : Memory w) {a b : Nat} {vs : List (BitVec w)}
    (h : a ≤ b ∧ b < a + vs.length) : ((m.writeFrom a vs).read b).isSome = true := by
  rw [read_writeFrom, if_pos h, List.getElem?_eq_getElem (by omega)]
  rfl

/-- A write leaves specified what was specified. -/
theorem isSome_read_writeFrom {w : Nat} {m : Memory w} {b : Nat} (a : Nat) (vs : List (BitVec w))
    (h : (m.read b).isSome = true) : ((m.writeFrom a vs).read b).isSome = true := by
  by_cases hb : a ≤ b ∧ b < a + vs.length
  · exact isSome_read_writeFrom_of_mem m hb
  · rw [read_writeFrom, if_neg hb, h]

theorem dstWrite_keeps_inv {s : State} {a : Nat} {bytes : List Byte} (h : s.Inv)
    (hfit : a + bytes.length ≤ s.platform.dstSize) : (dstWrite a bytes s).Inv :=
  { h with
    dst_wf := writeFrom_wf _ _ _ h.dst_wf
    dst_below := writeFrom_below _ _ _ _ h.dst_below hfit
    out_written := fun hv b hb => isSome_read_writeFrom a bytes (h.out_written hv b hb) }

/-- OUT_LEN may take any length below which DST is specified. -/
theorem setOutLen_keeps_inv {s : State} {n : Nat} (h : s.Inv) (hfit : n ≤ s.platform.dstSize)
    (hwritten : ∀ a, a < n → (s.dst.read a).isSome = true) : (setOutLen n s).Inv := by
  have hlen : (setOutLen n s).outLen.toNat ≤ n := by
    rw [setOutLen_outLen, BitVec.toNat_ofNat]
    exact Nat.mod_le n _
  exact { h with
    outLen_le := hlen.trans hfit
    out_written := fun _ a ha => hwritten a (lt_of_lt_of_le ha hlen) }

/-- A successful DST-writing command. -/
theorem emitted_keeps_inv {s : State} {n : Nat} {out : List Byte} (h : s.Inv) (hlen : out.length = n)
    (hfit : n ≤ s.platform.dstSize) : (emitted n out s).Inv := by
  have hdraw : (nextDraw s).Inv := h.of_frame rfl (List.Subset.refl _)
  have hdst : (dstWrite 0 out (nextDraw s)).Inv := dstWrite_keeps_inv hdraw (by rwa [hlen, Nat.zero_add])
  exact succeed_keeps_inv (setOutLen_keeps_inv hdst hfit fun a ha => isSome_read_writeFrom_of_mem _ (by omega))

/-- What a protocol violation leaves open stays within what STATUS and OUT_LEN can hold; DST need not be specified then
(70_reset_and_hazards.md R240). -/
theorem unpredictResults_keeps_inv {s : State} (h : s.Inv) (hv : Safety.violated s) : (unpredictResults s).Inv :=
  { h with
    dst_wf := List.Pairwise.nil
    dst_below := nofun
    err_le := by
      rw [unpredictResults_statusErr, BitVec.toNat_setWidth_of_le (by decide)]
      exact Nat.le_of_lt_succ (Config.freeResults s.draws).err.isLt
    err_sticky := fun hne => by
      have herr : (Config.freeResults s.draws).err ≠ 0 := fun h0 => hne (by rw [unpredictResults_statusErr, h0]; rfl)
      rw [unpredictResults_statusSticky, decide_eq_true herr, Bool.or_true]
    outLen_le := by
      rw [unpredictResults_outLen, BitVec.toNat_ofNat]
      exact (Nat.mod_le _ _).trans (Nat.le_of_lt_succ (Nat.mod_lt _ (Nat.succ_pos _)))
    out_written := fun hn => absurd hv hn }

theorem resetOf_inv {p : Platform} (hp : p.wf) : (State.resetOf p).Inv where
  platform_wf := hp
  src_wf := (resetOf_memories_wf p).1
  src_below := nofun
  dst_wf := (resetOf_memories_wf p).2
  dst_below := nofun
  err_le := errValue_toNat_le .ok
  err_sticky := fun hne => absurd rfl hne
  outLen_le := Nat.zero_le _
  out_written := fun _ _ => nofun

theorem resetBlock_keeps_inv {s : State} (h : s.Inv) : (resetBlock s).Inv :=
  (resetOf_inv h.platform_wf).of_frame rfl (List.nil_subset _)

/-! ### Commands -/

/-- Every end of a command: RED's result, an error, or an output that fits DST. -/
theorem exec_keeps_inv {i : Instr} {s t : State} (h : s.Inv) (hexec : exec i s = .next t) : t.Inv := by
  obtain ⟨-, rfl⟩ | ⟨-, rfl⟩ | ⟨-, -, -, rfl⟩ | ⟨n, hn, -, hfit, rfl⟩ := exec_cases hexec
  · exact succeed_keeps_inv (h.of_frame rfl (List.Subset.refl _))
  · exact raiseErr_keeps_inv h .dim
  · exact raiseErr_keeps_inv h .dst
  · exact emitted_keeps_inv h (outputBytes_length hn) hfit

theorem runCommandWord_keeps_inv {c : Word} {s t : State} (h : s.Inv) (hrun : runCommandWord c s = .next t) : t.Inv := by
  obtain ⟨i, -, hexec⟩ | ⟨-, rfl⟩ := runCommandWord_cases hrun
  · exact exec_keeps_inv h hexec
  · exact raiseErr_keeps_inv h .opcode

/-! ### Host accesses -/

@[simp] theorem hostRead_hostFaults (sp : Space) (off width : Nat) (s : State) :
    (hostRead sp off width s).hostFaults = s.hostFaults := by
  rw [hostRead_frame]

theorem hostRead_keeps_inv {s : State} (h : s.Inv) (sp : Space) (off width : Nat) : (hostRead sp off width s).Inv := by
  refine h.of_frame ?frame (by rw [hostRead_hostFaults]; exact List.Subset.refl _)
  case frame => rw [hostRead_frame]

/-- A window takes 1 to 4 bytes (20_memory.md R54). -/
theorem width_le_of_accepts {p : Platform} {sp : Space} {off width : Nat} (h : accepts p sp off width) : width ≤ 4 := by
  obtain ⟨hw, -⟩ := h
  cases sp <;> simp only [widthTaken, decide_eq_true_eq] at hw <;> omega

/-- A write that its window accepts stores inside the window. -/
theorem hostWrite_keeps_inv {s : State} {sp : Space} {off width : Nat} (h : s.Inv)
    (ha : accepts s.platform sp off width) (v : Word) : (hostWrite sp off width v s).Inv := by
  cases sp with
  | reg =>
    have hreg : (regWrite (regAt off) v s).Inv := by
      rw [regWrite_frame]
      exact h.of_frame rfl (List.Subset.refl _)
    exact hreg.of_frame rfl (List.Subset.refl _)
  | src =>
    have hi : off / 4 < s.platform.srcPixels := by
      have hlt : off < 4 * s.platform.srcPixels := offset_lt_of_accepts ha
      omega
    exact (srcWrite_keeps_inv h v hi).of_frame rfl (List.Subset.refl _)
  | dst =>
    have hfit : off + (leBytes width v).length ≤ s.platform.dstSize := by
      rw [leBytes_length width v (width_le_of_accepts ha)]
      exact ha.2
    exact (dstWrite_keeps_inv h hfit).of_frame rfl (List.Subset.refl _)

theorem acceptedAccess_keeps_inv {sp : Space} {off : Nat} {a : Access} {s t : State} (h : s.Inv)
    (ha : accepts s.platform sp off a.width) (haccess : acceptedAccess sp off a s = .next t) : t.Inv := by
  obtain ⟨_, w, rfl, rfl⟩ | ⟨_, _, v, -, -, -, hrun⟩ | ⟨_, w, v, rfl, -, rfl⟩ := acceptedAccess_cases haccess
  · exact hostRead_keeps_inv h sp off w
  · have hbegun : (beginCommand s).Inv := h.of_frame rfl (List.Subset.refl _)
    exact runCommandWord_keeps_inv hbegun hrun
  · exact hostWrite_keeps_inv h ha v

theorem recordBusError_keeps_inv {s : State} (h : s.Inv) (a : Access) : (recordBusError a s).Inv :=
  h.of_frame rfl (List.subset_append_left _ _)

theorem forbiddenEffect_keeps_inv {s : State} (h : s.Inv) (sp : Space) (off : Nat) (a : Access) :
    (forbiddenEffect sp off a s).Inv := by
  obtain ⟨-, e⟩ | ⟨ha, ⟨_, w, -, e⟩ | ⟨_, _, _, -, e⟩ | ⟨_, w, v, rfl, e⟩⟩ := forbiddenEffect_cases sp off a s <;> rw [e]
  · exact recordBusError_keeps_inv h a
  · exact hostRead_keeps_inv h sp off w
  · exact h.of_frame rfl (List.Subset.refl _)
  · exact hostWrite_keeps_inv h ha v

/-- A violation is recorded before it leaves anything open, and stays recorded. -/
theorem violation_keeps_inv {s : State} (h : s.Inv) (sp : Space) (off : Nat) (a : Access) : (violation sp off a s).Inv := by
  have hrecorded : HostFault.protocolViolation a ∈ (recordViolation a s).hostFaults := by simp
  have hbefore : (unpredictResults (recordViolation a s)).Inv :=
    unpredictResults_keeps_inv (h.of_frame rfl (List.subset_append_left _ _)) ⟨a, hrecorded⟩
  refine unpredictResults_keeps_inv (forbiddenEffect_keeps_inv hbefore sp off a) ⟨a, ?_⟩
  obtain ⟨-, -, -, -, -, -, -, hfaults⟩ := forbiddenEffect_frame sp off a (unpredictResults (recordViolation a s))
  rw [hfaults]
  exact List.mem_append_left _ hrecorded

theorem hostAccess_keeps_inv {a : Access} {s t : State} (h : s.Inv) (haccess : hostAccess a s = .next t) : t.Inv := by
  obtain ⟨-, rfl⟩ | ⟨sp, off, -, ⟨-, -, rfl⟩ | ⟨-, ⟨-, rfl⟩ | ⟨ha, haccepted⟩⟩⟩ := hostAccess_cases haccess
  · exact recordBusError_keeps_inv h a
  · exact violation_keeps_inv h sp off a
  · exact recordBusError_keeps_inv h a
  · exact acceptedAccess_keeps_inv h ha haccepted

end Sys2Proof.Machine

open Sys2Proof Sys2Proof.Machine

/-- Settles O4: one case for each event of a step; what an access does keeps the invariant update by update. -/
theorem stepKeepsInvariant : Obligations.StepKeepsInvariant := by
  intro s t hinv hstep
  have hpop : (popHost s).Inv := hinv.of_frame rfl (List.Subset.refl _)
  obtain ⟨-, rfl⟩ | ⟨-, -, rfl⟩ | ⟨-, -, rfl⟩ | ⟨a, -, -, haccess⟩ := step_cases hstep
  · exact hinv
  · exact resetBlock_keeps_inv hpop
  · exact hpop.of_frame rfl (List.Subset.refl _)
  · exact hostAccess_keeps_inv hpop haccess

/-- Settles O3: a launch state differs from the reset state of its platform in the host's program alone. -/
theorem launchStateMeetsInvariant : Obligations.LaunchStateMeetsInvariant := by
  rintro s ⟨hp, hs⟩
  rw [hs]
  exact ⟨(resetOf_inv hp).of_frame rfl (List.Subset.refl _), rfl, rfl⟩

/-- Settles O40. -/
theorem lengthCheckFollowsFromDimensionCheck : Obligations.LengthCheckFollowsFromDimensionCheck := fun _ _ _ =>
  lenOK_of_dimOK

end

section
/-! PROOF. The frames of all commands: what no command writes, what only a successful one writes and from where its output comes,
and the laws that tie the payloads and the containers together (41_row_reorder.md R125, 43_encode.md R173). -/

namespace Sys2Proof.Machine

/-! ### Payloads and the words they read -/

/-- Block `k` of blocks of one length. -/
theorem flatMap_range_drop_take {α : Type} (f : Nat → List α) {L n k : Nat} (h : ∀ k, (f k).length = L) (hk : k < n) :
    (((List.range n).flatMap f).drop (k * L)).take L = f k := by
  refine List.ext_getElem? fun j => ?_
  by_cases hj : j < L
  · rw [List.getElem?_take_of_lt hj, List.getElem?_drop, flatMap_range_getElem? f L n h k j hk hj]
  · rw [List.getElem?_take_eq_none (not_lt.1 hj), List.getElem?_eq_none (by rw [h]; omega)]

/-- Stored row `k`, whichever source row is stored there. -/
theorem storedRows_drop_take (px : Nat → Word) (row : Nat → Nat) {W H k : Nat} (hk : k < H) :
    (((List.range H).flatMap fun k => rowBytes px W (row k)).drop (2 * W * k)).take (2 * W) = rowBytes px W (row k) := by
  rw [Nat.mul_comm (2 * W) k]
  exact flatMap_range_drop_take (fun k => rowBytes px W (row k)) (fun k => rowBytes_length px W (row k)) hk

theorem rowBytes_congr {px px' : Nat → Word} {W H y : Nat} (hy : y < H) (h : ∀ j, j < W * H → px j = px' j) :
    rowBytes px W y = rowBytes px' W y := by
  refine List.flatMap_congr fun x hx => ?_
  have hlt : y * W + x < W * H := by
    have hx := List.mem_range.1 hx
    calc y * W + x < (y + 1) * W := by rw [Nat.add_mul]; omega
      _ ≤ H * W := Nat.mul_le_mul_right W hy
      _ = W * H := Nat.mul_comm H W
  rw [h _ hlt]

/-- A payload depends on the pixels of the image alone (20_memory.md R59). -/
theorem payloadBmp_congr {px px' : Nat → Word} {W H : Nat} (h : ∀ j, j < W * H → px j = px' j) :
    payloadBmp px W H = payloadBmp px' W H :=
  List.flatMap_congr fun k hk => rowBytes_congr (by have := List.mem_range.1 hk; omega) h

theorem payloadTga_congr {px px' : Nat → Word} {W H : Nat} (h : ∀ j, j < W * H → px j = px' j) :
    payloadTga px W H = payloadTga px' W H :=
  List.flatMap_congr fun _ hk => rowBytes_congr (List.mem_range.1 hk) h

/-! ### The ends of a command -/

/-- The engine writes its results alone (10_state.md R30; 20_memory.md R58, R59). -/
theorem exec_frame {i : Instr} {s t : State} (h : exec i s = .next t) :
    t = { s with
      statusErr := t.statusErr, statusSticky := t.statusSticky, pixOut := t.pixOut, outLen := t.outLen, dst := t.dst,
      draws := t.draws } := by
  obtain ⟨-, rfl⟩ | ⟨-, rfl⟩ | ⟨-, -, -, rfl⟩ | ⟨-, -, -, -, rfl⟩ := exec_cases h <;> rfl

/-- The ERR that a command ends with is its first error (60_exceptions.md R202). -/
theorem exec_statusErr {i : Instr} {s t : State} (h : exec i s = .next t) : t.statusErr = Safety.firstError i s := by
  obtain ⟨u, hu, herr⟩ := exec_reports_firstError i s
  obtain rfl := Host.Outcome.next.inj (h.symm.trans hu)
  exact herr

/-- The one way a DST-writing command ends without an error is its output, which fits DST (60_exceptions.md R205). -/
theorem exec_ok_eq_emitted {i : Instr} {s t : State} (hi : i ≠ .red) (h : exec i s = .next t) (hok : t.statusErr = 0) :
    ∃ n, Safety.outputLength i (imageW s) (imageH s) = some n ∧ n ≤ s.platform.dstSize ∧
      t = emitted n (outputBytes i s) s := by
  obtain ⟨hred, -⟩ | ⟨-, rfl⟩ | ⟨-, -, -, rfl⟩ | ⟨n, hn, -, hfit, rfl⟩ := exec_cases h
  · exact absurd hred hi
  · exact absurd hok (by decide : errValue .dim ≠ 0)
  · exact absurd hok (by decide : errValue .dst ≠ 0)
  · exact ⟨n, hn, hfit, rfl⟩

@[simp] theorem emitted_draws (n : Nat) (out : List Byte) (s : State) : (emitted n out s).draws = s.draws + 1 := rfl

/-- On a well-formed platform OUT_LEN is the length of an output that fits DST (10_state.md R28). -/
theorem emitted_outLen_toNat {s : State} {n : Nat} (out : List Byte) (hp : s.platform.wf) (hfit : n ≤ s.platform.dstSize) :
    (emitted n out s).outLen.toNat = n := by
  obtain ⟨-, ⟨-, hdst⟩, -, -⟩ := hp
  rw [emitted_outLen, BitVec.toNat_ofNat, Nat.mod_eq_of_lt (by omega)]

/-- Below its length an output is what a read of DST returns. -/
theorem read_emitted_of_lt {a n : Nat} {out : List Byte} (s : State) (h : a < out.length) :
    (emitted n out s).dst.read a = out[a]? := by
  rw [List.getElem?_eq_getElem h]
  exact read_emitted_of_getElem? s (List.getElem?_eq_getElem h)

theorem exec_red_or_failed_keeps {i : Instr} {s t : State} (h : exec i s = .next t) (hend : i = .red ∨ t.statusErr ≠ 0) :
    t.outLen = s.outLen ∧ t.dst = s.dst := by
  rcases hend with rfl | herr
  · obtain rfl := Host.Outcome.next.inj h
    exact ⟨rfl, rfl⟩
  · obtain ⟨e, rfl⟩ := exec_error_eq_raiseErr h herr
    exact ⟨rfl, rfl⟩

/-! ### What an output depends on -/

/-- A word that the host has written reads the same in every state that holds it. -/
theorem srcWord_eq_of_read_eq {s s' : State} {i : Nat} (hwritten : (s.src.read i).isSome = true)
    (h : s'.src.read i = s.src.read i) : srcWord s' i = srcWord s i := by
  obtain ⟨p, hp⟩ := Option.isSome_iff_exists.1 hwritten
  rw [srcWord_of_read hp, srcWord_of_read (h.trans hp)]

/-- The output of a command depends on WIDTH, HEIGHT and, where it reads SRC, the pixels of the image. -/
theorem outputBytes_congr {i : Instr} {s s' : State} (hW : imageW s' = imageW s) (hH : imageH s' = imageH s)
    (hpx : Safety.readsSource i = true → ∀ j, j < imageW s * imageH s → srcWord s' j = srcWord s j) :
    outputBytes i s' = outputBytes i s := by
  cases i <;> simp only [outputBytes, hW, hH]
  case payBmp => exact payloadBmp_congr (hpx rfl)
  case payTga => exact payloadTga_congr (hpx rfl)
  case encBmp => rw [payloadBmp_congr (hpx rfl)]
  case encTga => rw [payloadTga_congr (hpx rfl)]

/-- An output that begins with a shorter one holds it, and holds after it what follows it. -/
theorem read_emitted_append (s : State) {n m k : Nat} {header payload : List Byte} {H P : Nat}
    (hH : header.length = H) (hP : payload.length = P) :
    (∀ a, a < H → (emitted n (header ++ payload) s).dst.read a = (emitted m header s).dst.read a) ∧
    (∀ a, a < P → (emitted n (header ++ payload) s).dst.read (H + a) = (emitted k payload s).dst.read a) := by
  subst hH hP
  refine ⟨fun a ha => ?_, fun a ha => ?_⟩
  · rw [read_emitted_of_lt s (by simp; omega), read_emitted_of_lt s ha, List.getElem?_append_left ha]
  · rw [read_emitted_of_lt s (by simpa using ha), read_emitted_of_lt s ha,
      List.getElem?_append_right (Nat.le_add_right _ _), Nat.add_sub_cancel_left]

end Sys2Proof.Machine

open Sys2Proof Sys2Proof.Machine

/-- Settles O23: stored row `k` of the BMP payload and stored row `H - 1 - k` of the TGA payload are one source row. -/
theorem bmpRowsAreTgaRowsReversed : Obligations.BmpRowsAreTgaRowsReversed := by
  refine ⟨fun px W H k hk => ?_, fun px W => ?_⟩
  · have hbmp := storedRows_drop_take px (fun k => H - 1 - k) (W := W) hk
    have htga := storedRows_drop_take px id (W := W) (show H - 1 - k < H by omega)
    exact hbmp.trans htga.symm
  · rw [payloadBmp, payloadTga, List.range_one, List.flatMap_singleton, List.flatMap_singleton]

/-- Settles O32: each of the three commands passes its checks, and the container's output is the header's followed at once by the
payload's. The three start from one state, so their outputs hold the same pixels, free values among them. -/
theorem encodeIsHeaderThenPayload : Obligations.EncodeIsHeaderThenPayload := by
  intro s hp hd _
  have hlen := lenOK_of_wf hp hd
  refine ⟨fun hfit => ?bmp, fun hfit => ?tga⟩
  case bmp =>
    exact ⟨_, _, _, exec_fits rfl hd (fun _ => hlen) hfit, exec_fits rfl hd (fun _ => hlen) (by omega),
      exec_fits rfl hd nofun (by omega), read_emitted_append s (bmpHeader_length _ _) (payloadBmp_length _ _ _)⟩
  case tga =>
    exact ⟨_, _, _, exec_fits rfl hd nofun hfit, exec_fits rfl hd nofun (by omega),
      exec_fits rfl hd nofun (by omega), read_emitted_append s (tgaHeader_length _ _) (payloadTga_length _ _ _)⟩

/-- Settles O35: RED and an output leave STICKY, and the two errors do not end with ERR = 0. -/
theorem successfulCommandKeepsSticky : Obligations.SuccessfulCommandKeepsSticky := by
  intro i s t hexec hok
  by_cases hi : i = .red
  · subst hi
    obtain rfl := Host.Outcome.next.inj hexec
    rfl
  · obtain ⟨n, -, -, rfl⟩ := exec_ok_eq_emitted hi hexec hok
    exact emitted_statusSticky n _ s

/-- Settles O36. -/
theorem commandsNeverWriteTheirOperands : Obligations.CommandsNeverWriteTheirOperands := by
  intro i s t hexec
  rw [exec_frame hexec]
  exact ⟨rfl, rfl, rfl, rfl, rfl, rfl, rfl, rfl, rfl⟩

/-- Settles O37: an error leaves both registers, and a successful DST-writing command ends in `emitted`. -/
theorem resultRegistersHaveOneWriterEach : Obligations.ResultRegistersHaveOneWriterEach := by
  intro i s t hp hexec
  refine ⟨fun hi => ?pixOut, fun hend => (exec_red_or_failed_keeps hexec hend).1, fun n hn hok => ?outLen⟩
  case pixOut =>
    by_cases hok : t.statusErr = 0
    · obtain ⟨n, -, -, rfl⟩ := exec_ok_eq_emitted hi hexec hok
      rfl
    · obtain ⟨e, rfl⟩ := exec_error_eq_raiseErr hexec hok
      rfl
  case outLen =>
    have hi : i ≠ .red := by
      rintro rfl
      cases hn
    obtain ⟨m, hm, hfit, rfl⟩ := exec_ok_eq_emitted hi hexec hok
    rw [emitted_outLen_toNat _ hp hfit]
    exact Option.some.inj (hm.symm.trans hn)

/-- Settles O38: an output is written from offset 0, and its length is the new OUT_LEN. -/
theorem dstChangesOnlyBelowOutLen : Obligations.DstChangesOnlyBelowOutLen := by
  intro i s t hp hexec
  refine ⟨fun hend => (exec_red_or_failed_keeps hexec hend).2, fun hi hok => ?_⟩
  obtain ⟨n, hn, hfit, rfl⟩ := exec_ok_eq_emitted hi hexec hok
  have hlen := outputBytes_length hn
  rw [emitted_outLen_toNat _ hp hfit, emitted_dst]
  exact ⟨fun a ha => read_writeFrom_of_le _ _ _ _ (by omega), fun a ha => isSome_read_writeFrom_of_mem _ (by omega)⟩

/-- Settles O39: the two states fail the same check first, if any; where they fail none, they write one output. -/
theorem engineReadsNoWordOutsideTheImage : Obligations.EngineReadsNoWordOutsideTheImage := by
  intro i s s' t hp hs' hreads hexec
  obtain ⟨src', dst', rfl⟩ : ∃ src' dst', s' = { s with src := src', dst := dst' } := ⟨_, _, hs'⟩
  obtain ⟨t', hexec', herr'⟩ := exec_reports_firstError i { s with src := src', dst := dst' }
  have herr : t'.statusErr = t.statusErr := herr'.trans (exec_statusErr hexec).symm
  refine ⟨t', hexec', herr, ?_⟩
  by_cases hi : i = .red
  case pos =>
    subst hi
    obtain rfl := Host.Outcome.next.inj hexec
    obtain rfl := Host.Outcome.next.inj hexec'
    exact ⟨rfl, rfl, rfl, fun hne => absurd rfl hne⟩
  by_cases hok : t.statusErr = 0
  case neg =>
    obtain ⟨e, rfl⟩ := exec_error_eq_raiseErr hexec hok
    obtain ⟨e', rfl⟩ := exec_error_eq_raiseErr hexec' (herr ▸ hok)
    exact ⟨rfl, rfl, rfl, fun _ h0 => absurd h0 hok⟩
  obtain ⟨n, hn, hfit, rfl⟩ := exec_ok_eq_emitted hi hexec hok
  obtain ⟨n', hn', -, rfl⟩ := exec_ok_eq_emitted hi hexec' (herr.trans hok)
  obtain rfl : n' = n := Option.some.inj (hn'.symm.trans hn)
  have hout : outputBytes i { s with src := src', dst := dst' } = outputBytes i s :=
    outputBytes_congr rfl rfl fun hr j hj => srcWord_eq_of_read_eq ((hreads hr).1 j hj) ((hreads hr).2 j hj)
  have hlen := outputBytes_length hn
  rw [hout, emitted_outLen_toNat _ hp hfit]
  refine ⟨rfl, rfl, rfl, fun _ _ a ha => ?_⟩
  rw [read_emitted_of_lt _ (by omega), read_emitted_of_lt _ (by omega)]

end

section
/-! PROOF. The command word (30_encoding.md R70 to R73): a word is a command's exactly when its two fields are. -/

namespace Sys2Proof

/-- The opcode table, read in both directions (30_encoding.md R72). -/
theorem commandOfOpcode_eq_some_iff {op : Byte} {i : Instr} : commandOfOpcode op = some i ↔ op = opcodeOf i := by
  constructor
  · intro h
    unfold commandOfOpcode at h
    split at h
    case h_8 => cases h
    all_goals
      cases h
      exact BitVec.eq_of_toNat_eq ‹_›
  · rintro rfl
    cases i <;> rfl

/-- A word whose RSV is 0 is its OPCODE, zero-extended (30_encoding.md R70). -/
theorem eq_setWidth_opcodeField {c : Word} (h : rsvField c = 0) : c = (opcodeField c).setWidth 32 := by
  have hrsv : c.toNat / 2 ^ 8 % 2 ^ 24 = 0 := by
    rw [← Nat.shiftRight_eq_div_pow, ← BitVec.extractLsb'_toNat]
    exact congrArg BitVec.toNat h
  refine BitVec.eq_of_toNat_eq ?_
  rw [BitVec.toNat_setWidth_of_le (by decide), opcodeField, BitVec.extractLsb'_toNat, Nat.shiftRight_zero]
  have hlt := c.isLt
  omega

theorem rsvField_encode (i : Instr) : rsvField (encode i) = 0 := by
  cases i <;> rfl

theorem opcodeField_encode (i : Instr) : opcodeField (encode i) = opcodeOf i := by
  cases i <;> rfl

theorem decode_eq_ok_iff {c : Word} {i : Instr} : decode c = .ok i ↔ rsvField c = 0 ∧ opcodeField c = opcodeOf i := by
  rw [← commandOfOpcode_eq_some_iff]
  by_cases hr : rsvField c = 0
  · cases hop : commandOfOpcode (opcodeField c) <;> simp [decode, hr, hop]
  · rw [decode_of_rsvField_ne_zero hr]
    exact iff_of_false nofun fun h => hr h.1

theorem decode_encode (i : Instr) : decode (encode i) = .ok i :=
  decode_eq_ok_iff.2 ⟨rsvField_encode i, opcodeField_encode i⟩

theorem decode_eq_ok_iff_eq_encode {c : Word} {i : Instr} : decode c = .ok i ↔ c = encode i := by
  constructor
  · intro h
    obtain ⟨hrsv, hop⟩ := decode_eq_ok_iff.1 h
    rw [eq_setWidth_opcodeField hrsv, hop, encode]
  · rintro rfl
    exact decode_encode i

end Sys2Proof

open Sys2Proof Sys2Proof.Machine

/-- Settles O9: RSV is 0 and OPCODE is the command's, which leaves one word. -/
theorem decodeAcceptsOnlyEncodedWords : Obligations.DecodeAcceptsOnlyEncodedWords := fun _ _ =>
  decode_eq_ok_iff_eq_encode

/-- Settles O8. -/
theorem decodeOfEncodeIsTheCommand : Obligations.DecodeOfEncodeIsTheCommand := fun i =>
  ⟨by cases i <;> rfl, decode_encode i⟩

/-- Settles O10: the seven words are the encodings. -/
theorem tableWordsDecodeToTheirCommands : Obligations.TableWordsDecodeToTheirCommands :=
  ⟨decode_encode .red, decode_encode .payBmp, decode_encode .payTga, decode_encode .hdrBmp, decode_encode .hdrTga,
    decode_encode .encBmp, decode_encode .encTga⟩

end

section
/-! PROOF. Host accesses to the register window (10_state.md R21 to R29): the start of a command, `wait`, and reads and writes of
the registers; and the events that are no access. -/

namespace Sys2Proof.Machine

/-- Every register is one aligned word of the window (10_state.md R21). -/
theorem regOffset_aligned (r : Reg) : regOffset r % 4 = 0 ∧ regOffset r + 4 ≤ 32 := by
  cases r <;> decide

/-- A 32-bit access to a register is accepted (20_memory.md R54). -/
theorem accepts_register (p : Platform) (r : Reg) : accepts p .reg (regOffset r) 4 :=
  ⟨decide_eq_true ⟨rfl, (regOffset_aligned r).1⟩, (regOffset_aligned r).2⟩

theorem locate_register (p : Platform) (r : Reg) : locate p (p.regBase + regOffset r) = some (.reg, regOffset r) := by
  have hlt : regOffset r < 32 := offset_lt_of_accepts (accepts_register p r)
  have hlocate := locate_reg (p := p) ⟨Nat.le_add_right _ (regOffset r), Nat.add_lt_add_left hlt _⟩
  rwa [spaceBase, Nat.add_sub_cancel_left] at hlocate

/-- A 32-bit access to a register that the protocol allows is carried out, on every platform. -/
theorem step_register {s : State} {a : Access} {es : List HostEvent} (r : Reg) (hh : s.host = .access a :: es)
    (haddr : a.address = s.platform.regBase + regOffset r) (hwidth : a.width = 4)
    (hw : s.awaiting = true → isStatusRead .reg (regOffset r) a) :
    step s = acceptedAccess .reg (regOffset r) a { s with host := es } := by
  rw [step_event hh, popHost_of_host_cons hh]
  refine hostAccess_accepted ?_ hw (hwidth ▸ accepts_register _ r)
  rw [haddr]
  exact locate_register _ r

/-- A write of CMD starts the command of the word written (10_state.md R22). -/
theorem step_cmd_write {s : State} {es : List HostEvent} {c : Word}
    (hh : s.host = .access (.write (s.platform.regBase + 0x00) 4 c) :: es) (hw : s.awaiting = false) :
    step s = runCommandWord c { s with host := es, awaiting := true, response := none } := by
  rw [step_register .cmd hh rfl rfl (by simp [hw]), acceptedAccess, if_pos ⟨rfl, rfl⟩]
  rfl

theorem step_register_write {s : State} {es : List HostEvent} {r : Reg} {v : Word}
    (hh : s.host = .access (.write (s.platform.regBase + regOffset r) 4 v) :: es) (hw : s.awaiting = false)
    (hr : r ≠ .cmd) : step s = .next (respond none (regWrite r v { s with host := es })) := by
  have hoffset : ¬ (Space.reg = .reg ∧ regOffset r = cmdOffset) := by
    cases r
    case cmd => exact absurd rfl hr
    all_goals decide
  rw [step_register r hh rfl rfl (by simp [hw]), acceptedAccess, if_neg hoffset, hostWrite, regAt_regOffset]

theorem step_register_read {s : State} {es : List HostEvent} {r : Reg}
    (hh : s.host = .access (.read (s.platform.regBase + regOffset r) 4) :: es) (hw : s.awaiting = false ∨ r = .status) :
    step s = .next (respond (some (regRead r s)) { s with host := es }) := by
  have hallowed : s.awaiting = true → isStatusRead .reg (regOffset r) (.read (s.platform.regBase + regOffset r) 4) := by
    intro hawaited
    obtain rfl := hw.resolve_left (by simp [hawaited])
    exact ⟨rfl, rfl, rfl, rfl⟩
  rw [step_register r hh rfl rfl hallowed, acceptedAccess, hostRead, regAt_regOffset]
  cases r <;> rfl

theorem step_wait {s : State} {es : List HostEvent} (hh : s.host = .wait :: es) :
    step s = .next { s with host := es, awaiting := false, response := some (statusWord s) } := by
  rw [step_event hh, popHost_of_host_cons hh]
  rfl

/-- STATUS.BUSY is 0 in every state (10_state.md R35). -/
theorem busyBit_statusWord (s : State) : busyBit (statusWord s) = false := by
  rw [busyBit, getLsbD_statusWord, BitVec.getLsbD_of_ge _ _ (by decide)]
  rfl

end Sys2Proof.Machine

open Sys2Proof Sys2Proof.Machine

/-- Settles O50: `wait` is one step; `cmd! OP` is a write of CMD, whose command keeps the host's program, and then such a step. -/
theorem commandThenWaitEndsTheCommand : Obligations.CommandThenWaitEndsTheCommand := by
  refine ⟨fun s es hh => ⟨step_wait hh, busyBit_statusWord s⟩, fun s es i hw hh => ?_⟩
  have hcmd : s.host = .access (.write (s.platform.regBase + 0x00) 4 (encode i)) :: .wait :: es := hh
  rw [step_cmd_write hcmd hw, runCommandWord_ok _ (decode_encode i), hcmd, List.tail_cons]
  obtain ⟨t, hexec, -⟩ := exec_reports_firstError i { s with host := .wait :: es, awaiting := true, response := none }
  have hwait : t.host = .wait :: es := by rw [exec_frame hexec]
  exact ⟨t, _, hexec, hexec, step_wait hwait, rfl⟩

/-- Settles O12. -/
theorem stepRunsTheDecodedCommand : Obligations.StepRunsTheDecodedCommand := by
  intro s es c i hh hw hdecode
  rw [step_cmd_write hh hw, runCommandWord_ok _ hdecode]

/-- Settles O13: the command that an illegal word starts is the error alone. -/
theorem stepOnIllegalWordRaisesErrOpcode : Obligations.StepOnIllegalWordRaisesErrOpcode := by
  intro s es c e hh hw hdecode
  rw [step_cmd_write hh hw, runCommandWord_error _ hdecode]
  rfl

/-- Settles O44: what a write of each register stores. -/
theorem registerWriteStoresOrIsIgnored : Obligations.RegisterWriteStoresOrIsIgnored := by
  intro s es r v hh hw hr
  refine ⟨none, (step_register_write hh hw hr).trans ?_⟩
  cases r
  case pixIn => simp [regWrite, respond, BitVec.setWidth_eq_extractLsb']
  all_goals rfl

/-- Settles O45: the value is `regRead`'s, which keeps the two narrow registers' numbers. -/
theorem registerReadReturnsItsValue : Obligations.RegisterReadReturnsItsValue := by
  intro s es r hh hw
  refine ⟨regRead r s, step_register_read hh hw, ?_, ?_, ?_, ?_, ?_, ?_, ?_, ?_⟩
  all_goals rintro rfl
  case refine_5 => exact BitVec.toNat_setWidth_of_le (by decide)
  case refine_6 => exact BitVec.toNat_setWidth_of_le (by decide)
  all_goals rfl

/-- Settles O7: bit by bit, and BUSY as `wait` tests it. -/
theorem statusReadShowsErrStickyAndNoBusy : Obligations.StatusReadShowsErrStickyAndNoBusy := by
  intro s
  refine ⟨BitVec.eq_of_getLsbD_eq fun k hk => ?err, ?sticky, busyBit_statusWord s⟩
  case err => simp [getLsbD_statusWord, hk, hk.ne]
  case sticky => rw [getLsbD_statusWord, BitVec.getLsbD_of_ge _ _ (le_refl 4)]; rfl

/-- Settles O2. -/
theorem resetKeepsWhatIsNotTheBlocks : Obligations.ResetKeepsWhatIsNotTheBlocks := by
  intro s es hh
  rw [step_reset hh, popHost_of_host_cons hh]
  rfl

/-- Settles O58. -/
theorem idleBlockStaysAsItIs : Obligations.IdleBlockStaysAsItIs := fun _ => step_idle

end

section
/-! PROOF. The windows (20_memory.md R50 to R54), and host accesses to DST as one little-endian byte array (R53). -/

namespace Sys2Proof.Machine

/-! ### Windows -/

/-- On every platform an address in no window's range is located nowhere (20_memory.md R51). -/
theorem locate_eq_none {p : Platform} {a : Nat}
    (h : ∀ sp, a < spaceBase p sp ∨ spaceBase p sp + spaceSize p sp ≤ a) : locate p a = none := by
  have hout : ∀ sp, ¬ inSpace p sp a := fun sp ⟨hle, hlt⟩ => (h sp).elim hle.not_gt hlt.not_ge
  rw [locate, if_neg (hout .reg), if_neg (hout .src), if_neg (hout .dst)]

/-! ### Bytes of a word -/

/-- The bytes of a 32-bit value are those of a field of its length (00_scope.md R15). -/
theorem leBytes_getElem? {n k : Nat} (v : Word) (hn : n ≤ 4) (hk : k < n) :
    (leBytes n v)[k]? = some (BitVec.ofNat 8 (v.toNat / 256 ^ k)) := by
  have hbytes : le32 v = fieldBytes 4 v.toNat := by rw [← le32_ofNat, BitVec.ofNat_toNat, BitVec.setWidth_eq]
  rw [leBytes, List.getElem?_take_of_lt hk, hbytes, fieldBytes_getElem? _ (by omega)]

theorem leNat_lt (bs : List Byte) : leNat bs < 256 ^ bs.length := by
  induction bs with
  | nil => decide
  | cons b bs ih =>
    have hb := b.isLt
    rw [leNat, List.length_cons, Nat.pow_succ']
    omega

/-- Bytes are the field of the number they assemble to. -/
theorem fieldBytes_leNat (bs : List Byte) : fieldBytes bs.length (leNat bs) = bs := by
  induction bs with
  | nil => rfl
  | cons b bs ih =>
    have hb := b.isLt
    have hrest : (b.toNat + 256 * leNat bs) / 256 = leNat bs := by omega
    have hfirst : BitVec.ofNat 8 (b.toNat + 256 * leNat bs) = b := by
      refine BitVec.eq_of_toNat_eq ?_
      rw [BitVec.toNat_ofNat]
      omega
    rw [List.length_cons, leNat, fieldBytes, hrest, hfirst, ih]

/-! ### Reads of DST -/

@[simp] theorem dstBytes_length (s : State) (a n : Nat) : (dstBytes s a n).length = n := by
  simp [dstBytes]

theorem dstByte_of_read {s : State} {a : Nat} {b : Byte} (h : s.dst.read a = some b) : dstByte s a = b := by
  rw [dstByte, h]

theorem memRead_toNat {n : Nat} (s : State) (a : Nat) (hn : n ≤ 4) : (memRead s a n).toNat = leNat (dstBytes s a n) := by
  have hlt := leNat_lt (dstBytes s a n)
  rw [dstBytes_length] at hlt
  have hword : 256 ^ n ≤ 256 ^ 4 := Nat.pow_le_pow_right (by decide) hn
  rw [memRead, BitVec.toNat_ofNat, Nat.mod_eq_of_lt (by omega)]

theorem memRead_toNat_lt {n : Nat} (s : State) (a : Nat) (hn : n ≤ 4) : (memRead s a n).toNat < 256 ^ n := by
  have hlt := leNat_lt (dstBytes s a n)
  rwa [dstBytes_length, ← memRead_toNat s a hn] at hlt

/-- Byte `k` of the value read is the byte of DST at its place (20_memory.md R53). -/
theorem memRead_byte {n k : Nat} (s : State) (a : Nat) (hn : n ≤ 4) (hk : k < n) :
    (memRead s a n).extractLsb' (8 * k) 8 = dstByte s (a + k) := by
  have hplace : (dstBytes s a n)[k]? = some (dstByte s (a + k)) := by simp [dstBytes, hk]
  have hfield : (dstBytes s a n)[k]? = some (BitVec.ofNat 8 (leNat (dstBytes s a n) / 256 ^ k)) := by
    rw [← fieldBytes_getElem? (n := n) _ hk]
    conv_lhs => rw [← fieldBytes_leNat (dstBytes s a n), dstBytes_length]
  rw [memRead, extractLsb'_ofNat _ (by omega), Nat.pow_mul]
  exact Option.some.inj (hfield.symm.trans hplace)

/-- A read of one byte answers it, zero-extended. -/
theorem memRead_one (s : State) (a : Nat) : memRead s a 1 = (dstByte s a).setWidth 32 := by
  have hnat : leNat (dstBytes s a 1) = (dstByte s a).toNat := by simp [dstBytes, leNat]
  rw [memRead, hnat, BitVec.ofNat_toNat]

/-- A byte of DST that nothing has written reads as a free value (10_state.md R34). -/
theorem memRead_of_unspecified {s : State} {a : Nat} (h : s.dst.read a = none) :
    memRead s a 1 = (Config.freeByte s.draws a).setWidth 32 := by
  rw [memRead_one, dstByte, h]

/-- A word of SRC that nothing has written, likewise (10_state.md R32). -/
theorem srcWord_of_unspecified {s : State} {i : Nat} (h : s.src.read i = none) :
    srcWord s i = (Config.freePixel s.draws i).setWidth 32 := by
  rw [srcWord, srcPixel, h]

/-! ### Accesses to DST -/

theorem step_dst_write {s : State} {es : List HostEvent} {a n : Nat} {v : Word} (hp : s.platform.wf)
    (hw : s.awaiting = false) (ha : accepts s.platform .dst a n)
    (hh : s.host = .access (.write (s.platform.dstBase + a) n v) :: es) :
    step s = .next (respond none (dstWrite a (leBytes n v) { s with host := es })) := by
  rw [step_accepted (sp := .dst) hp hw hh rfl ha, popHost_of_host_cons hh, acceptedAccess, if_neg (by simp), hostWrite,
    memWrite_eq_dstWrite]

theorem step_dst_read {s : State} {es : List HostEvent} {a n : Nat} (hp : s.platform.wf)
    (hw : s.awaiting = false) (ha : accepts s.platform .dst a n)
    (hh : s.host = .access (.read (s.platform.dstBase + a) n) :: es) :
    step s = .next (nextDraw (respond (some (memRead s a n)) { s with host := es })) := by
  rw [step_accepted (sp := .dst) hp hw hh rfl ha, popHost_of_host_cons hh, acceptedAccess, hostRead]
  rfl

/-- A byte access to DST is accepted at any offset (20_memory.md R54). -/
theorem accepts_dst_byte {p : Platform} {a : Nat} (h : a < p.dstSize) : accepts p .dst a 1 :=
  ⟨rfl, h⟩

end Sys2Proof.Machine

open Sys2Proof Sys2Proof.Machine

/-- Settles O41: an address inside a window is in that one only, and outside all three every test of `locate` fails. -/
theorem windowsPartitionTheirAddresses : Obligations.WindowsPartitionTheirAddresses := fun _ _ hp =>
  ⟨fun _ hle hlt => locate_of_inSpace hp ⟨hle, hlt⟩, locate_eq_none⟩

/-- Settles O42: the widths and alignments that `widthTaken` decides, with the width put into the bound. -/
theorem acceptedWidthsAndAlignments : Obligations.AcceptedWidthsAndAlignments := by
  intro p off width
  simp only [accepts, widthTaken, spaceSize, decide_eq_true_eq]
  refine ⟨?reg, ?src, trivial⟩
  case reg => omega
  case src => omega

/-- Settles O57: the address is located nowhere, which is a bus error whatever is awaited. -/
theorem accessOutsideTheWindowsIsBusError : Obligations.AccessOutsideTheWindowsIsBusError := by
  intro s a es hh hout
  rw [step_event hh, popHost_of_host_cons hh]
  exact hostAccess_outside (locate_eq_none hout)

/-- Settles O47: the bytes stored are the value's field, and a write changes its own cells only. -/
theorem dstWriteStoresLittleEndianBytes : Obligations.DstWriteStoresLittleEndianBytes := by
  intro s es a n v hp hw ha hh
  have hn := width_le_of_accepts ha
  have hlen := leBytes_length n v hn
  refine ⟨_, step_dst_write hp hw ha hh, rfl, fun k hk => ?field, fun b hb => ?frame⟩
  case field =>
    rw [respond_dst, dstWrite_dst, read_writeFrom, if_pos (by omega), Nat.add_sub_cancel_left, leBytes_getElem? v hn hk]
  case frame => rw [respond_dst, dstWrite_dst, read_writeFrom, if_neg (by omega)]

/-- Settles O48. -/
theorem dstReadsOfAnyWidthSeeOneByteArray : Obligations.DstReadsOfAnyWidthSeeOneByteArray := by
  intro s es a n hp hw ha hh
  have hn := width_le_of_accepts ha
  refine ⟨_, _, step_dst_read hp hw ha hh, rfl, memRead_toNat_lt s a hn, fun k b hk hread => ?_⟩
  rw [memRead_byte s a hn hk, dstByte_of_read hread]

/-- Settles O49: each read answers the free value of the count of draws it finds, and adds one to it; so does an output. -/
theorem readsOfUnspecifiedContentsDrawAnew : Obligations.ReadsOfUnspecifiedContentsDrawAnew := by
  refine ⟨?src, ?dst, ?command⟩
  case src =>
    intro s es i hp hw hi hread hh
    exact ⟨_, _, step_src_read hp hw hi hh, step_src_read hp hw hi rfl, rfl, rfl,
      congrArg some (srcWord_of_unspecified hread), congrArg some (srcWord_of_unspecified hread)⟩
  case dst =>
    intro s es a hp hw ha hread hh
    have haccepted := accepts_dst_byte ha
    exact ⟨_, _, step_dst_read hp hw haccepted hh, step_dst_read hp hw haccepted rfl, rfl, rfl,
      congrArg some (memRead_of_unspecified hread), congrArg some (memRead_of_unspecified hread)⟩
  case command =>
    intro i s t hexec hi hok
    obtain ⟨n, -, -, rfl⟩ := exec_ok_eq_emitted hi hexec hok
    exact emitted_draws n _ s

end

section
/-! PROOF. An access that the host protocol forbids (70_reset_and_hazards.md R240): what it may leave in the operands of the
command. -/

namespace Sys2Proof.Machine

/-- Each operand of a command holds in `t` what it held in `s`, or what the access writes there: the two choices of
70_reset_and_hazards.md R240. -/
def operandsOldOrWritten (sp : Space) (off : Nat) (a : Access) (s t : State) : Prop :=
  (t.width = s.width ∨ sp = .reg ∧ off = 0x08 ∧ a = .write a.address 4 t.width) ∧
  (t.height = s.height ∨ sp = .reg ∧ off = 0x0C ∧ a = .write a.address 4 t.height) ∧
  (t.pixIn = s.pixIn ∨ ∃ v, sp = .reg ∧ off = 0x10 ∧ a = .write a.address 4 v ∧ t.pixIn = v.extractLsb' 0 24) ∧
  (∀ j, t.src.read j = s.src.read j ∨
    ∃ v, sp = .src ∧ off = 4 * j ∧ a = .write a.address 4 v ∧ t.src.read j = some (v.extractLsb' 0 24))

theorem operandsOldOrWritten_of_eq {sp : Space} {off : Nat} {a : Access} {s t : State} (hwidth : t.width = s.width)
    (hheight : t.height = s.height) (hpixIn : t.pixIn = s.pixIn) (hsrc : t.src = s.src) :
    operandsOldOrWritten sp off a s t :=
  ⟨.inl hwidth, .inl hheight, .inl hpixIn, fun _ => .inl (by rw [hsrc])⟩

/-- An aligned offset of the register window is that of the register found there (10_state.md R21). -/
theorem eq_regOffset_regAt {off : Nat} (haligned : off % 4 = 0) (hlt : off < 32) : off = regOffset (regAt off) := by
  obtain ⟨k, rfl⟩ := Nat.dvd_of_mod_eq_zero haligned
  have hk : k < 8 := by omega
  interval_cases k <;> rfl

/-- A write that its window accepts changes at most the one operand it names. -/
theorem hostWrite_operands {sp : Space} {off width ad : Nat} {v : Word} {s : State}
    (ha : accepts s.platform sp off width) :
    operandsOldOrWritten sp off (.write ad width v) s (hostWrite sp off width v s) := by
  obtain ⟨hwidth, hend⟩ := ha
  cases sp with
  | reg =>
    obtain ⟨rfl, haligned⟩ := of_decide_eq_true hwidth
    have hoff : off = regOffset (regAt off) := eq_regOffset_regAt haligned (by simp only [spaceSize] at hend; omega)
    simp only [hostWrite]
    cases hr : regAt off <;> rw [hr] at hoff
    case width => exact ⟨.inr ⟨rfl, hoff, rfl⟩, .inl rfl, .inl rfl, fun _ => .inl rfl⟩
    case height => exact ⟨.inl rfl, .inr ⟨rfl, hoff, rfl⟩, .inl rfl, fun _ => .inl rfl⟩
    case pixIn =>
      have hheld : v.setWidth 24 = v.extractLsb' 0 24 := BitVec.setWidth_eq_extractLsb' (by decide)
      exact ⟨.inl rfl, .inl rfl, .inr ⟨v, rfl, hoff, rfl, hheld⟩, fun _ => .inl rfl⟩
    all_goals exact operandsOldOrWritten_of_eq rfl rfl rfl rfl
  | src =>
    obtain ⟨rfl, haligned⟩ := of_decide_eq_true hwidth
    refine ⟨.inl rfl, .inl rfl, .inl rfl, fun j => ?_⟩
    by_cases hj : j = off / 4
    · refine .inr ⟨v, rfl, by omega, rfl, ?_⟩
      rw [hostWrite, respond_src, srcWrite_src, read_writeFrom_singleton, if_pos hj,
        BitVec.setWidth_eq_extractLsb' (by decide)]
    · rw [hostWrite, respond_src, srcWrite_src, read_writeFrom_singleton, if_neg hj]
      exact .inl rfl
  | dst => exact operandsOldOrWritten_of_eq rfl rfl rfl rfl

/-- A forbidden access changes an operand only as a write that takes effect does. -/
theorem forbiddenEffect_operands (sp : Space) (off : Nat) (a : Access) (s : State) :
    operandsOldOrWritten sp off a s (forbiddenEffect sp off a s) := by
  obtain ⟨-, e⟩ | ⟨ha, ⟨_, w, -, e⟩ | ⟨_, _, _, -, e⟩ | ⟨ad, w, v, rfl, e⟩⟩ := forbiddenEffect_cases sp off a s <;> rw [e]
  · exact operandsOldOrWritten_of_eq rfl rfl rfl rfl
  · rw [hostRead_frame]
    exact operandsOldOrWritten_of_eq rfl rfl rfl rfl
  · exact operandsOldOrWritten_of_eq rfl rfl rfl rfl
  · exact hostWrite_operands ha

/-- What is left open before and after the access is no operand. -/
theorem violation_operands (sp : Space) (off : Nat) (a : Access) (s : State) :
    operandsOldOrWritten sp off a s (violation sp off a s) :=
  forbiddenEffect_operands sp off a (unpredictResults (recordViolation a s))

/-- The access that may stand before the wait is the 32-bit read. -/
theorem eq_read_of_isStatusRead {sp : Space} {off : Nat} {a : Access} (h : isStatusRead sp off a) :
    sp = .reg ∧ off = 0x04 ∧ a = .read a.address 4 := by
  obtain ⟨hsp, hoff, hread, hwidth⟩ := h
  refine ⟨hsp, hoff, ?_⟩
  cases a with
  | read ad w => rw [← hwidth]; rfl
  | write ad w v => cases hread

end Sys2Proof.Machine

open Sys2Proof Sys2Proof.Machine

/-- Settles O51: the access is no read of STATUS, so it is a violation, of which `violation_frame` gives the faults it records and
what it leaves alone, and `violation_operands` the operands. -/
theorem accessBeforeWaitIsProtocolViolation : Obligations.AccessBeforeWaitIsProtocolViolation := by
  intro s a es sp off hh hw hlocate hread
  have hstep : step s = .next (violation sp off a { s with host := es }) := by
    rw [step_event hh, popHost_of_host_cons hh]
    exact hostAccess_forbidden hlocate hw fun hstatus => hread (eq_read_of_isStatusRead hstatus)
  obtain ⟨hplatform, hawaiting, hhost, -, -, hfaults⟩ := violation_frame sp off a { s with host := es }
  exact ⟨_, hstep, hhost, hawaiting.trans hw, hplatform, hfaults, violation_operands sp off a { s with host := es }⟩

end

section
/-! PROOF. The host protocol along a run (70_reset_and_hazards.md R240, R246, R247): what a step does to the host's events and the
recorded faults, and that it records a violation exactly where the check of the events fails. -/

namespace Sys2Proof.Machine

/-! ### The check of the next access -/

theorem hostConforms_outside {p : Platform} {a : Access} (awaiting : Bool) (es : List HostEvent)
    (h : locate p a.address = none) : hostConforms p awaiting (.access a :: es) = hostConforms p awaiting es := by
  simp only [hostConforms, h]

theorem hostConforms_forbidden {p : Platform} {a : Access} {sp : Space} {off : Nat} (es : List HostEvent)
    (h : locate p a.address = some (sp, off)) (hr : ¬ isStatusRead sp off a) :
    hostConforms p true (.access a :: es) = false := by
  simp only [hostConforms, h, if_true, decide_eq_false hr, Bool.false_and]

/-- With no command awaited any access to the block may stand; a write of CMD starts the waiting. -/
theorem hostConforms_free {p : Platform} {a : Access} {sp : Space} {off : Nat} (es : List HostEvent)
    (h : locate p a.address = some (sp, off)) :
    hostConforms p false (.access a :: es) = hostConforms p (decide (isCmdWrite sp off a)) es := by
  simp only [hostConforms, h, Bool.false_eq_true, if_false]

theorem hostConforms_statusRead {p : Platform} {a : Access} {sp : Space} {off : Nat} (es : List HostEvent)
    (h : locate p a.address = some (sp, off)) (hr : isStatusRead sp off a) :
    hostConforms p true (.access a :: es) = hostConforms p true es := by
  simp only [hostConforms, h, if_true, decide_eq_true hr, Bool.true_and]

/-- What is left of a program after an access that the protocol allows is checked with a command awaited if one was, or if the
access starts one. -/
theorem hostConforms_allowed {p : Platform} {a : Access} {sp : Space} {off : Nat} {awaiting : Bool} (es : List HostEvent)
    (h : locate p a.address = some (sp, off)) (hw : awaiting = true → isStatusRead sp off a) :
    hostConforms p awaiting (.access a :: es) = hostConforms p (awaiting || decide (isCmdWrite sp off a)) es := by
  cases awaiting with
  | false => rw [hostConforms_free es h, Bool.false_or]
  | true => rw [hostConforms_statusRead es h (hw rfl), Bool.true_or]

/-! ### What an access does to the host's fields -/

/-- A command starts and ends with the host's fields as they are (20_memory.md R60). -/
theorem runCommandWord_host {c : Word} {s t : State} (h : runCommandWord c s = .next t) :
    t.platform = s.platform ∧ t.host = s.host ∧ t.hostFaults = s.hostFaults ∧ t.awaiting = s.awaiting := by
  obtain ⟨i, -, hexec⟩ | ⟨-, rfl⟩ := runCommandWord_cases h
  · rw [exec_frame hexec]
    exact ⟨rfl, rfl, rfl, rfl⟩
  · exact ⟨rfl, rfl, rfl, rfl⟩

/-- An accepted access records no fault, and is waited for if it writes CMD. -/
theorem acceptedAccess_host {sp : Space} {off : Nat} {a : Access} {s t : State} (ha : accepts s.platform sp off a.width)
    (h : acceptedAccess sp off a s = .next t) :
    t.platform = s.platform ∧ t.host = s.host ∧ t.hostFaults = s.hostFaults ∧
      t.awaiting = (s.awaiting || decide (isCmdWrite sp off a)) := by
  obtain ⟨ad, w, rfl, rfl⟩ | ⟨ad, w, v, rfl, rfl, rfl, hrun⟩ | ⟨ad, w, v, rfl, hcmd, rfl⟩ := acceptedAccess_cases h
  · have hread : ¬ isCmdWrite sp off (.read ad w) := fun ⟨_, _, hwrite, _⟩ => by cases hwrite
    rw [hostRead_frame, decide_eq_false hread, Bool.or_false]
    exact ⟨rfl, rfl, rfl, rfl⟩
  · obtain ⟨hplatform, hhost, hfaults, hawaiting⟩ := runCommandWord_host hrun
    obtain ⟨hwidth, -⟩ := of_decide_eq_true ha.1
    have hwrite : isCmdWrite .reg cmdOffset (.write ad w v) := ⟨rfl, rfl, rfl, hwidth⟩
    rw [decide_eq_true hwrite, Bool.or_true]
    exact ⟨hplatform, hhost, hfaults, hawaiting⟩
  · have hother : ¬ isCmdWrite sp off (.write ad w v) := fun ⟨hsp, hoff, _⟩ => hcmd ⟨hsp, hoff⟩
    rw [hostWrite_frame, decide_eq_false hother, Bool.or_false]
    exact ⟨rfl, rfl, rfl, rfl⟩

/-- A write of CMD is always accepted. -/
theorem accepts_of_isCmdWrite {p : Platform} {sp : Space} {off : Nat} {a : Access} (h : isCmdWrite sp off a) :
    accepts p sp off a.width := by
  obtain ⟨rfl, rfl, -, hwidth⟩ := h
  rw [hwidth]
  exact accepts_register p .cmd

/-- From `s` to `t` the faults `fs` were recorded. Either one is a violation, and the check of the events `es` fails in `s`; or
none is, and the check answers as that of the events `es'` in `t` does. -/
def recordsByCheck (s t : State) (es es' : List HostEvent) (fs : List HostFault) : Prop :=
  t.hostFaults = s.hostFaults ++ fs ∧
    ((hostConforms s.platform s.awaiting es = false ∧ ∃ a, HostFault.protocolViolation a ∈ fs) ∨
     (hostConforms s.platform s.awaiting es = hostConforms t.platform t.awaiting es' ∧
      ∀ a, HostFault.protocolViolation a ∉ fs))

/-- An access leaves the platform and the events still to come, and records a violation exactly where the check fails at it. -/
theorem hostAccess_host {a : Access} {s t : State} (es : List HostEvent) (h : hostAccess a s = .next t) :
    t.platform = s.platform ∧ t.host = s.host ∧ ∃ fs, recordsByCheck s t (.access a :: es) es fs := by
  obtain ⟨hl, rfl⟩ | ⟨sp, off, hl, ⟨hw, hr, rfl⟩ | ⟨hw, ⟨ha, rfl⟩ | ⟨ha, haccepted⟩⟩⟩ := hostAccess_cases h
  · exact ⟨rfl, rfl, _, rfl, .inr ⟨hostConforms_outside _ es hl, by simp⟩⟩
  · obtain ⟨hplatform, -, hhost, -, -, hfaults⟩ := violation_frame sp off a s
    exact ⟨hplatform, hhost, _, hfaults, .inl ⟨hw ▸ hostConforms_forbidden es hl hr, a, List.mem_cons_self⟩⟩
  · have hcmd : ¬ isCmdWrite sp off a := fun hwrite => ha (accepts_of_isCmdWrite hwrite)
    have hcheck := hostConforms_allowed es hl hw
    rw [decide_eq_false hcmd, Bool.or_false] at hcheck
    exact ⟨rfl, rfl, _, rfl, .inr ⟨hcheck, by simp⟩⟩
  · obtain ⟨hplatform, hhost, hfaults, hawaiting⟩ := acceptedAccess_host ha haccepted
    refine ⟨hplatform, hhost, [], by rw [hfaults, List.append_nil], .inr ⟨?_, nofun⟩⟩
    rw [hplatform, hawaiting]
    exact hostConforms_allowed es hl hw

/-! ### What a step does to the host's fields -/

/-- A step takes the next event, leaves the platform, and records a violation exactly where the check fails at that event. -/
theorem step_host {s t : State} (h : step s = .next t) :
    t.platform = s.platform ∧ t.host = s.host.tail ∧ ∃ fs, recordsByCheck s t s.host t.host fs := by
  obtain ⟨hh, rfl⟩ | ⟨es, hh, rfl⟩ | ⟨es, hh, rfl⟩ | ⟨a, es, hh, haccess⟩ := step_cases h
  · exact ⟨rfl, by rw [hh]; rfl, [], (List.append_nil _).symm, .inr ⟨rfl, nofun⟩⟩
  · refine ⟨rfl, rfl, [], (List.append_nil _).symm, .inr ⟨?_, nofun⟩⟩
    rw [resetBlock_host, popHost_host, hh]
    rfl
  · refine ⟨rfl, rfl, [], (List.append_nil _).symm, .inr ⟨?_, nofun⟩⟩
    rw [show (hostWait (popHost s)).host = s.host.tail from rfl, hh]
    rfl
  · obtain ⟨hplatform, hhost, fs, hrecords⟩ := hostAccess_host es haccess
    refine ⟨hplatform, hhost, fs, ?_⟩
    rw [hhost, popHost_host, hh]
    exact hrecords

theorem conforming_of_no_events {s : State} (h : s.host = []) : Safety.conforming s := by
  rw [Safety.conforming, h]
  rfl

/-- Where the check passes, a step records no violation and the check of what is left answers the same. -/
theorem step_of_conforming {s t : State} (hc : Safety.conforming s) (h : step s = .next t) :
    Safety.conforming t ∧ ∃ fs, t.hostFaults = s.hostFaults ++ fs ∧ ∀ a, HostFault.protocolViolation a ∉ fs := by
  obtain ⟨-, -, fs, hfs, ⟨hfail, -⟩ | ⟨hcheck, hnone⟩⟩ := step_host h
  · rw [Safety.conforming, hfail] at hc
    cases hc
  · exact ⟨by rwa [Safety.conforming, ← hcheck], fs, hfs, hnone⟩

/-- Every access still to come lies in a window that accepts it (20_memory.md R54). -/
def accessesAccepted (s : State) : Prop :=
  ∀ a, .access a ∈ s.host → ∃ sp off, locate s.platform a.address = some (sp, off) ∧ accepts s.platform sp off a.width

theorem step_keeps_accessesAccepted {s t : State} (ha : accessesAccepted s) (h : step s = .next t) : accessesAccepted t := by
  obtain ⟨hplatform, hhost, -⟩ := step_host h
  rw [accessesAccepted, hplatform, hhost]
  exact fun a hmem => ha a (List.mem_of_mem_tail hmem)

/-- Where every access is accepted and the check passes, a step records nothing. -/
theorem step_keeps_hostFaults {s t : State} (hc : Safety.conforming s)
    (haccepted : accessesAccepted s) (h : step s = .next t) : t.hostFaults = s.hostFaults := by
  obtain ⟨hh, rfl⟩ | ⟨es, hh, rfl⟩ | ⟨es, hh, rfl⟩ | ⟨a, es, hh, haccess⟩ := step_cases h
  · rfl
  · rfl
  · rfl
  obtain ⟨sp, off, hl, ha⟩ := haccepted a (hh ▸ List.mem_cons_self)
  have hw : s.awaiting = true → isStatusRead sp off a := by
    intro hawaited
    by_contra hr
    rw [Safety.conforming, hh, hawaited, hostConforms_forbidden es hl hr] at hc
    cases hc
  rw [hostAccess_accepted (s := popHost s) hl hw ha] at haccess
  obtain ⟨-, -, hfaults, -⟩ := acceptedAccess_host (s := popHost s) ha haccess
  exact hfaults

/-! ### Every step answers -/

theorem acceptedAccess_answers (sp : Space) (off : Nat) (a : Access) (s : State) :
    ∃ t, acceptedAccess sp off a s = .next t := by
  cases a with
  | read ad w => exact ⟨_, rfl⟩
  | write ad w v =>
    rw [acceptedAccess]
    split
    · exact (everyCommandEnds (beginCommand s)).2 v
    · exact ⟨_, rfl⟩

theorem hostAccess_answers (a : Access) (s : State) : ∃ t, hostAccess a s = .next t := by
  obtain ⟨-, e⟩ | ⟨sp, off, -, ⟨-, -, e⟩ | ⟨-, ⟨-, e⟩ | ⟨-, e⟩⟩⟩ := hostAccess_outcome a s
  · exact ⟨_, e⟩
  · exact ⟨_, e⟩
  · exact ⟨_, e⟩
  · exact e ▸ acceptedAccess_answers sp off a s

theorem step_answers (s : State) : ∃ t, step s = .next t := by
  cases hh : s.host with
  | nil => exact ⟨s, step_idle hh⟩
  | cons e es =>
    rw [step_event hh]
    cases e with
    | access a => exact hostAccess_answers a (popHost s)
    | wait => exact ⟨_, rfl⟩
    | reset => exact ⟨_, rfl⟩

/-! ### Runs -/

theorem length_host_step {s t : State} {n : Nat} (hn : s.host.length = n + 1) (h : step s = .next t) :
    t.host.length = n := by
  obtain ⟨-, hhost, -⟩ := step_host h
  rw [hhost, List.length_tail, hn, Nat.add_sub_cancel]

/-- One step an event ends a run. -/
theorem run_to_end {n : Nat} {s : State} (hn : s.host.length = n) :
    ∃ t, Sys2Proof.core.run n s = .next t ∧ t.host = [] := by
  induction n generalizing s with
  | zero => exact ⟨s, rfl, List.eq_nil_of_length_eq_zero hn⟩
  | succ n ih =>
    obtain ⟨t, hstep⟩ := step_answers s
    rw [run_of_next n hstep]
    exact ih (length_host_step hn hstep)

/-- No run clears a recorded fault (60_exceptions.md R211). -/
theorem run_hostFaults {n : Nat} {s t : State} (h : Sys2Proof.core.run n s = .next t) :
    ∃ fs, t.hostFaults = s.hostFaults ++ fs := by
  induction n generalizing s with
  | zero =>
    obtain rfl := Host.Outcome.next.inj h
    exact ⟨[], (List.append_nil _).symm⟩
  | succ n ih =>
    obtain ⟨u, hstep⟩ := step_answers s
    obtain ⟨-, -, fs, hfs, -⟩ := step_host hstep
    rw [run_of_next n hstep] at h
    obtain ⟨fs', hfs'⟩ := ih h
    exact ⟨fs ++ fs', by rw [hfs', hfs, List.append_assoc]⟩

/-- A state with a recorded fault is no end of a successful run, and neither is any that it leads to. -/
theorem not_successful_of_hostFaults {s : State} (n : Nat) (h : s.hostFaults ≠ []) :
    ¬ Safety.successful (Sys2Proof.core.run n s) := by
  rintro ⟨t, hrun, -, -, hnone⟩
  obtain ⟨fs, hfs⟩ := run_hostFaults hrun
  rw [hnone] at hfs
  exact h (List.append_eq_nil_iff.1 hfs.symm).1

/-- A step from a state whose program is refused records a violation, or leaves a refused program. -/
theorem step_of_refused {s t : State} (hc : ¬ Safety.conforming s) (h : step s = .next t) :
    ∃ fs, t.hostFaults = s.hostFaults ++ fs ∧
      ((∃ a, HostFault.protocolViolation a ∈ fs) ∨ ¬ Safety.conforming t) := by
  obtain ⟨-, -, fs, hfs, ⟨-, hviolation⟩ | ⟨hcheck, -⟩⟩ := step_host h
  · exact ⟨fs, hfs, .inl hviolation⟩
  · exact ⟨fs, hfs, .inr (by rwa [Safety.conforming, ← hcheck])⟩

/-- The check fails at some event, and the run comes to it. -/
theorem refused_run_violates {n : Nat} {s : State} (hn : s.host.length = n) (hc : ¬ Safety.conforming s) :
    ∃ (m : Nat) (a : Access) (t : State) (fs : List HostFault),
      Sys2Proof.core.run m s = .next t ∧ t.hostFaults = s.hostFaults ++ fs ∧ .protocolViolation a ∈ fs := by
  induction n generalizing s with
  | zero => exact absurd (conforming_of_no_events (List.eq_nil_of_length_eq_zero hn)) hc
  | succ n ih =>
    obtain ⟨t, hstep⟩ := step_answers s
    obtain ⟨fs, hfs, ⟨a, ha⟩ | hct⟩ := step_of_refused hc hstep
    · exact ⟨1, a, t, fs, run_of_next 0 hstep, hfs, ha⟩
    · obtain ⟨m, a, u, fs', hrun, hfs', ha⟩ := ih (length_host_step hn hstep) hct
      refine ⟨m + 1, a, u, fs ++ fs', (run_of_next m hstep).trans hrun, ?_, List.mem_append_right fs ha⟩
      rw [hfs', hfs, List.append_assoc]

theorem refused_run_not_successful (n : Nat) {s : State} (hc : ¬ Safety.conforming s) :
    ¬ Safety.successful (Sys2Proof.core.run n s) := by
  induction n generalizing s with
  | zero =>
    rintro ⟨t, hrun, hhost, -, -⟩
    obtain rfl := Host.Outcome.next.inj hrun
    exact hc (conforming_of_no_events hhost)
  | succ n ih =>
    obtain ⟨t, hstep⟩ := step_answers s
    rw [run_of_next n hstep]
    obtain ⟨fs, hfs, ⟨a, ha⟩ | hct⟩ := step_of_refused hc hstep
    · refine not_successful_of_hostFaults n fun hnone => ?_
      rw [hfs] at hnone
      exact List.ne_nil_of_mem (List.mem_append_right _ ha) hnone
    · exact ih hct

/-- A conforming run of accepted accesses records nothing to its end. -/
theorem conforming_run_keeps_hostFaults {n : Nat} {s : State} (hn : s.host.length = n) (hc : Safety.conforming s)
    (haccepted : accessesAccepted s) :
    ∃ t, Sys2Proof.core.run n s = .next t ∧ t.host = [] ∧ t.hostFaults = s.hostFaults := by
  induction n generalizing s with
  | zero => exact ⟨s, rfl, List.eq_nil_of_length_eq_zero hn, rfl⟩
  | succ n ih =>
    obtain ⟨t, hstep⟩ := step_answers s
    have hfaults := step_keeps_hostFaults hc haccepted hstep
    obtain ⟨hct, -⟩ := step_of_conforming hc hstep
    rw [run_of_next n hstep, ← hfaults]
    exact ih (length_host_step hn hstep) hct (step_keeps_accessesAccepted haccepted hstep)

end Sys2Proof.Machine

open Sys2Proof Sys2Proof.Machine

/-- Settles O53. -/
theorem conformingProgramStaysConforming : Obligations.ConformingProgramStaysConforming := fun _ _ => step_of_conforming

/-- Settles O43: a bus error is `recordBusError`, which changes no field of the block; every step only adds to the faults. -/
theorem busErrorIsRecordedForGood : Obligations.BusErrorIsRecordedForGood := by
  refine ⟨fun s a es hh hcause => ⟨none, ?recorded⟩, fun s t hstep => ?kept, fun s hfaults => ?spoiled⟩
  case recorded =>
    rw [step_event hh, popHost_of_host_cons hh]
    obtain hl | ⟨sp, off, hw, hl, ha⟩ := hcause
    · exact hostAccess_outside hl
    · exact hostAccess_busError hl (by simp [hw]) ha
  case kept =>
    obtain ⟨-, -, fs, hfs, -⟩ := step_host hstep
    exact ⟨fs, hfs⟩
  case spoiled => exact not_successful_of_hostFaults 0 hfaults

/-- Settles O54: by induction on the events and on the number of steps; a step of a refused program violates the protocol or
leaves a refused program, and a program with no events is none. -/
theorem refusedProgramViolatesAndNeverSucceeds : Obligations.RefusedProgramViolatesAndNeverSucceeds := fun _ hc =>
  ⟨refused_run_violates rfl hc, fun n => refused_run_not_successful n hc⟩

/-- Settles O55: every step answers and takes one event. -/
theorem everyProgramRunsToItsEnd : Obligations.EveryProgramRunsToItsEnd := ⟨step_answers, fun _ => run_to_end rfl⟩

/-- Settles O56: the run's end has no event and no fault left, so that waiting for a command is all that can spoil it. -/
theorem conformingProgramRunsToItsEnd : Obligations.ConformingProgramRunsToItsEnd := by
  intro s hc hnone haccepted
  obtain ⟨t, hrun, hhost, hfaults⟩ := conforming_run_keeps_hostFaults rfl hc haccepted
  refine ⟨t, hrun, hhost, hfaults.trans hnone, ?_⟩
  rw [hrun]
  constructor
  · rintro ⟨u, hu, -, hawaiting, -⟩
    obtain rfl := Host.Outcome.next.inj hu
    exact hawaiting
  · exact fun hawaiting => ⟨t, rfl, hhost, hawaiting, hfaults.trans hnone⟩

end

section
/-! PROOF. The host command language (30_encoding.md R81, R82): each statement is checked as the events it stands for. -/

namespace Sys2Proof.Machine

/-- A statement that is one access to the block is checked as that access, where the two agree on what reads STATUS and what
starts a command. -/
theorem hostConforms_statement {p : Platform} {awaiting : Bool} {a : Access} {sp : Space} {off : Nat} {st : Stmt}
    {es : List HostEvent} (hst : st ≠ .wait) (hl : locate p a.address = some (sp, off))
    (hread : isStatusRead sp off a ↔ st = .rd .status) (hcmd : isCmdWrite sp off a ↔ st.startsCommand = true) :
    hostConforms p awaiting (.access a :: es) =
      if st = .wait then hostConforms p false es
      else if awaiting then decide (st = .rd .status) && hostConforms p true es
      else hostConforms p st.startsCommand es := by
  rw [if_neg hst]
  cases awaiting with
  | false =>
    have hstarts : decide (isCmdWrite sp off a) = st.startsCommand := Bool.eq_iff_iff.2 (decide_eq_true_iff.trans hcmd)
    rw [hostConforms_free es hl, hstarts, if_neg Bool.false_ne_true]
  | true =>
    by_cases hr : isStatusRead sp off a
    · rw [hostConforms_statusRead es hl hr, if_pos rfl, decide_eq_true (hread.1 hr), Bool.true_and]
    · rw [hostConforms_forbidden es hl hr, if_pos rfl, decide_eq_false (hread.not.1 hr), Bool.false_and]

theorem regOffset_eq_cmdOffset_iff (r : Reg) : regOffset r = cmdOffset ↔ r = .cmd := by
  cases r <;> decide

theorem regOffset_eq_statusOffset_iff (r : Reg) : regOffset r = statusOffset ↔ r = .status := by
  cases r <;> decide

/-- A write of CMD may stand only where no command is awaited (70_reset_and_hazards.md R244). -/
theorem hostConforms_cmd_write (p : Platform) (awaiting : Bool) (c : Word) (es : List HostEvent) :
    hostConforms p awaiting (.access (regWriteAccess p .cmd c) :: es) = (!awaiting && hostConforms p true es) := by
  have hl : locate p (regWriteAccess p .cmd c).address = some (.reg, cmdOffset) := locate_register p .cmd
  have hwrite : isCmdWrite .reg cmdOffset (regWriteAccess p .cmd c) := ⟨rfl, rfl, rfl, rfl⟩
  have hread : ¬ isStatusRead .reg cmdOffset (regWriteAccess p .cmd c) := fun ⟨_, _, hisRead, _⟩ => by cases hisRead
  cases awaiting with
  | false => rw [hostConforms_free es hl, decide_eq_true hwrite, Bool.not_false, Bool.true_and]
  | true => rw [hostConforms_forbidden es hl hread, Bool.not_true, Bool.false_and]

/-- The check of a statement's events, by cases of the statement (70_reset_and_hazards.md R240). -/
theorem hostConforms_stmtEvents {p : Platform} (hp : p.wf) (awaiting : Bool) {st : Stmt} (hst : st.inRange p = true)
    (es : List HostEvent) :
    hostConforms p awaiting (stmtEvents p st ++ es) =
      if st = .wait then hostConforms p false es
      else if awaiting then decide (st = .rd .status) && hostConforms p true es
      else hostConforms p st.startsCommand es := by
  cases st
  case wr r v =>
    refine hostConforms_statement nofun (locate_register p r) ?_ ?_
    · simp [isStatusRead, regWriteAccess, Access.isRead]
    · simp [isCmdWrite, regWriteAccess, Access.isRead, Access.width, Stmt.startsCommand, regOffset_eq_cmdOffset_iff]
  case rd r =>
    refine hostConforms_statement nofun (locate_register p r) ?_ ?_
    · simp [isStatusRead, regReadAccess, Access.isRead, Access.width, regOffset_eq_statusOffset_iff]
    · simp [isCmdWrite, regReadAccess, Access.isRead, Stmt.startsCommand]
  case wpix | rpix =>
    refine hostConforms_statement nofun (locate_of_accepts hp (accepts_src_word (of_decide_eq_true hst))) ?_ ?_
    · simp
    · simp [Stmt.startsCommand]
  case wrb | rdb | rdh | rdw =>
    refine hostConforms_statement nofun (locate_of_accepts hp (accepts_dst_byte (of_decide_eq_true hst))) ?_ ?_
    · simp
    · simp [Stmt.startsCommand]
  case wait => rfl
  case cmd => exact (hostConforms_cmd_write p awaiting _ es).trans (by cases awaiting <;> rfl)
  case cmdWait => exact (hostConforms_cmd_write p awaiting _ (.wait :: es)).trans (by cases awaiting <;> rfl)

end Sys2Proof.Machine

open Sys2Proof Sys2Proof.Machine

/-- Settles O52: by induction on the program, statement by statement. -/
theorem statementCheckIsEventCheck : Obligations.StatementCheckIsEventCheck := by
  intro p awaiting prog hp hrange
  induction prog generalizing awaiting with
  | nil => cases awaiting <;> rfl
  | cons st rest ih =>
    have hrest := fun awaiting => ih awaiting fun st' hmem => hrange st' (List.mem_cons_of_mem st hmem)
    rw [programEvents, List.flatMap_cons, hostConforms_stmtEvents hp awaiting (hrange st List.mem_cons_self),
      programConforms, ← hrest, ← hrest, ← hrest]
    rfl

end
